-- ==== Sys2Proof/Word.lean ====
section
/-! DEFINITION. The bit-vector types of MP3FS: a stream byte and the 32-bit header word (spec 00 section 6). -/

namespace Sys2Proof

/-- A byte of the input stream; bit 7 is its most significant bit (00 section 6). -/
abbrev Byte := BitVec 8

/-- The 32-bit header word `H = B0 ++ B1 ++ B2 ++ B3`, bit 31 first in the stream (00 section 6, 30 R45). -/
abbrev Word := BitVec 32

end Sys2Proof
end

