-- ==== Sys2Proof/Syntax.lean ====
section
/-! DEFINITION. The syntax: one constructor of `Instr` per row of spec/opcode_table.json, where its words come from,
and the enumerations of the header's typed fields (00 section 6). -/

namespace Sys2Proof

/-- AudioVersion (30 R48). `invalid` is the reserved code point. -/
inductive AudioVersion where
  | mpeg1 | mpeg2 | mpeg25 | invalid
  deriving DecidableEq, Repr

/-- Layer (30 R49). `invalid` is the reserved code point. -/
inductive Layer where
  | layer1 | layer2 | layer3 | invalid
  deriving DecidableEq, Repr

/-- ChannelMode (30 R52); all four values are legal. -/
inductive ChannelMode where
  | stereo | joint | dual | single
  deriving DecidableEq, Repr

/-- Emphasis (30 R53, decision D11). `invalid` is the reserved code point. -/
inductive Emphasis where
  | noEmphasis | ms5015 | invalid | ccitJ17
  deriving DecidableEq, Repr

/-- The sample-rate table's version key: a version that is not the reserved one (42 R91). -/
inductive VersionKey where
  | mpeg1 | mpeg2 | mpeg25
  deriving DecidableEq, Repr

/-- The bitrate table's version class: MPEG_1, or the other MPEG versions (42 R87). -/
inductive VersionClass where
  | v1 | v2
  deriving DecidableEq, Repr

/-- The bitrate table's layer key: a layer that is not the reserved one (42 R87). -/
inductive LayerKey where
  | l1 | l2 | l3
  deriving DecidableEq, Repr

/-- A resolved bitrate: a sentinel or a number of bits per second (42 R86), of the width of `DOUT.val` (10 R20). -/
inductive Bitrate where
  | free
  | invalid
  | bps (n : Word)
  deriving DecidableEq, Repr

/-- A resolved sample rate: the sentinel or a number of hertz (42 R86), of the width of `DOUT.val` (10 R20). -/
inductive SampleRate where
  | reserved
  | hz (n : Word)
  deriving DecidableEq, Repr

/-- Where the words of an instruction come from: the host presents a command (30 R57, R60), or the word stands in the
input stream at the cursor (30 R45, R61). DESIGN CHOICE, log entries 1 and 3. -/
inductive Source where
  | command | stream
  deriving DecidableEq, Repr

/-- The rows of spec/opcode_table.json. The first eight are the command codes of 30 R57; `frame` is the
pseudo-operation of 30 R60; the rest are the patterns of stream words of 30 R45, R54, R61 and 42 R89, which the model
runs as pseudo-operations on the word standing at the cursor (DESIGN CHOICE, log entry 1). -/
inductive Instr where
  /-- SCAN.C, consuming scan (40 R67). -/
  | scanC
  /-- SCAN.N, non-consuming scan (40 R68). -/
  | scanN
  /-- DEC3, decode with the sync byte pre-consumed (41 R77). -/
  | dec3
  /-- DEC4, decode of a four-byte window (41 R78). -/
  | dec4
  /-- VALID, validate the header in H (43 R104). -/
  | valid
  /-- BRATE, resolved-bitrate accessor (42 R94). -/
  | brate
  /-- SRATE, resolved-sample-rate accessor (42 R95). -/
  | srate
  /-- RESERVED.CMD7, the reserved command code (30 R58, 60 R131). -/
  | reservedCmd7
  /-- FRAME, one iteration of the driver loop (30 R60, 44 R116). -/
  | frame
  /-- HDR32, a word that carries the sync pattern (30 R45). -/
  | hdr32 (h : Word)
  /-- SYNC2, the two-byte sync pattern with its five free bits (30 R61). -/
  | sync2 (low : BitVec 5)
  /-- HDR32.RSVD.VER, a word with the reserved version code point (30 R54). -/
  | rsvdVer (h : Word)
  /-- HDR32.RSVD.LAY, a word with the reserved layer code point (30 R54). -/
  | rsvdLay (h : Word)
  /-- HDR32.RSVD.BRI, a word with bitrate index 15 (30 R54). -/
  | rsvdBri (h : Word)
  /-- HDR32.RSVD.SRI, a word with sample-rate index 3 (30 R54). -/
  | rsvdSri (h : Word)
  /-- HDR32.RSVD.EMPH, a word with the reserved emphasis code point (30 R54). -/
  | rsvdEmph (h : Word)
  /-- HDR32.FREE.BRI, a word with bitrate index 0, free format (42 R89). -/
  | freeBri (h : Word)
  deriving DecidableEq, Repr

/-- Where an instruction's words stand. -/
def Instr.source : Instr → Source
  | .scanC | .scanN | .dec3 | .dec4 | .valid | .brate | .srate | .reservedCmd7 | .frame => .command
  | .hdr32 _ | .sync2 _ | .rsvdVer _ | .rsvdLay _ | .rsvdBri _ | .rsvdSri _ | .rsvdEmph _ | .freeBri _ => .stream

end Sys2Proof
end

