-- ==== Sys2Proof/WellFormed.lean ====
section
/-! DEFINITION. Which instructions are well-formed: a header row's word holds the row's fixed bits (30 R45, R54, 42 R89)
and is not claimed by a row that the decoder tries before it (log entry 2). -/

namespace Sys2Proof

/-- The word carries the sync pattern: `H[31:21]` is all ones (30 R45). -/
def carriesSync (h : Word) : Bool := h.extractLsb' 21 11 == 0x7FF#11

/-- `VER = 0b01` (30 R54). -/
def hasReservedVersion (h : Word) : Bool := h.extractLsb' 19 2 == 0b01#2

/-- `LAY = 0b00` (30 R54). -/
def hasReservedLayer (h : Word) : Bool := h.extractLsb' 17 2 == 0b00#2

/-- `BRI = 0b1111` (30 R54). -/
def hasInvalidBitrate (h : Word) : Bool := h.extractLsb' 12 4 == 0b1111#4

/-- `SRI = 0b11` (30 R54). -/
def hasReservedSampleRate (h : Word) : Bool := h.extractLsb' 10 2 == 0b11#2

/-- `EMPH = 0b10` (30 R54). -/
def hasReservedEmphasis (h : Word) : Bool := h.extractLsb' 0 2 == 0b10#2

/-- `BRI = 0` (42 R89). -/
def hasFreeBitrate (h : Word) : Bool := h.extractLsb' 12 4 == 0b0000#4

/-- Well-formed instructions. The order of the header rows is DESIGN CHOICE, log entry 2: HDR32, then the reserved rows
VER, BRI, SRI, EMPH, LAY, then FREE.BRI; the rows overlap in the table and their meanings agree. -/
def Instr.wf : Instr → Bool
  | .scanC | .scanN | .dec3 | .dec4 | .valid | .brate | .srate | .reservedCmd7 | .frame => true
  | .sync2 _ => true
  | .hdr32 h => carriesSync h
  | .rsvdVer h => !carriesSync h && hasReservedVersion h
  | .rsvdBri h => !carriesSync h && !hasReservedVersion h && hasInvalidBitrate h
  | .rsvdSri h => !carriesSync h && !hasReservedVersion h && !hasInvalidBitrate h && hasReservedSampleRate h
  | .rsvdEmph h =>
      !carriesSync h && !hasReservedVersion h && !hasInvalidBitrate h && !hasReservedSampleRate h &&
        hasReservedEmphasis h
  | .rsvdLay h =>
      !carriesSync h && !hasReservedVersion h && !hasInvalidBitrate h && !hasReservedSampleRate h &&
        !hasReservedEmphasis h && hasReservedLayer h
  | .freeBri h =>
      !carriesSync h && !hasReservedVersion h && !hasInvalidBitrate h && !hasReservedSampleRate h &&
        !hasReservedEmphasis h && !hasReservedLayer h && hasFreeBitrate h

end Sys2Proof
end

