-- ==== Sys2Proof/Decode.lean ====
section
/-! DEFINITION. From bytes to an instruction or a named rejection, written from the match and mask columns of
spec/opcode_table.json, and the encoder beside it. -/

namespace Sys2Proof

/-- Why bytes are no row of the opcode table. -/
inductive Reject where
  /-- No row has this number of bytes in this place. -/
  | length
  /-- A command byte whose bits 7:3 are not zero; a command is a 3-bit code (30 R57). -/
  | commandBits
  /-- Two command bytes that are not the 9-bit string of FRAME (30 R60). -/
  | notFrame
  /-- Two stream bytes without the sync pattern (30 R61). -/
  | notSync
  /-- A four-byte word that carries neither the sync pattern nor a reserved or free code point (30 R45, R54). -/
  | noHeaderRow
  deriving DecidableEq, Repr

/-- What a decoder answers. -/
inductive Decoded where
  | instr (i : Instr)
  | rejected (r : Reject)
  deriving DecidableEq, Repr

/-- The row's match and mask (spec/opcode_table.json): the masked word equals the match value. -/
def fits (mask value h : Word) : Bool := h &&& mask == value

/-- The 3-bit command codes (30 R57), a command standing alone in a byte with bits 7:3 zero (log entry 4). -/
def decodeCommand (b : Byte) : Decoded :=
  match b.toNat with
  | 0 => .instr .scanC
  | 1 => .instr .scanN
  | 2 => .instr .dec3
  | 3 => .instr .dec4
  | 4 => .instr .valid
  | 5 => .instr .brate
  | 6 => .instr .srate
  | 7 => .instr .reservedCmd7
  | _ => .rejected .commandBits

/-- FRAME, the 9-bit string 000 010 100 in two bytes (30 R60; log entry 4). -/
def decodeFrame (b0 b1 : Byte) : Decoded :=
  if b0 ++ b1 = 0x0014#16 then .instr .frame else .rejected .notFrame

/-- SYNC2, match FFE0 under mask FFE0 (30 R61). -/
def decodeSync (b0 b1 : Byte) : Decoded :=
  if (b0 ++ b1) &&& 0xFFE0#16 = 0xFFE0#16 then .instr (.sync2 (b1.extractLsb' 0 5)) else .rejected .notSync

/-- The header rows by match and mask (30 R45, R54, 42 R89), in the order of log entry 2. -/
def decodeHeaderWord (h : Word) : Decoded :=
  if fits 0xFFE00000#32 0xFFE00000#32 h then .instr (.hdr32 h)
  else if fits 0x00180000#32 0x00080000#32 h then .instr (.rsvdVer h)
  else if fits 0x0000F000#32 0x0000F000#32 h then .instr (.rsvdBri h)
  else if fits 0x00000C00#32 0x00000C00#32 h then .instr (.rsvdSri h)
  else if fits 0x00000003#32 0x00000002#32 h then .instr (.rsvdEmph h)
  else if fits 0x00060000#32 0x00000000#32 h then .instr (.rsvdLay h)
  else if fits 0x0000F000#32 0x00000000#32 h then .instr (.freeBri h)
  else .rejected .noHeaderRow

/-- The word of four stream bytes, the first most significant (20 R33, 30 R45). -/
def wordOfBytes (b0 b1 b2 b3 : Byte) : Word := b0 ++ b1 ++ b2 ++ b3

/-- The four stream bytes of a word, the most significant first (20 R33, 30 R45). -/
def bytesOfWord (h : Word) : List Byte :=
  [h.extractLsb' 24 8, h.extractLsb' 16 8, h.extractLsb' 8 8, h.extractLsb' 0 8]

/-- Bytes the host presents: one for a command, two for FRAME. -/
def decodeIssued : List Byte → Decoded
  | [b] => decodeCommand b
  | [b0, b1] => decodeFrame b0 b1
  | _ => .rejected .length

/-- Bytes that stand in the stream: two for SYNC2, four for a header row. -/
def decodeStream : List Byte → Decoded
  | [b0, b1] => decodeSync b0 b1
  | [b0, b1, b2, b3] => decodeHeaderWord (wordOfBytes b0 b1 b2 b3)
  | _ => .rejected .length

/-- The decoder, total on any bytes. -/
def decode (src : Source) (bytes : List Byte) : Decoded :=
  match src with
  | .command => decodeIssued bytes
  | .stream => decodeStream bytes

/-- The bytes of an instruction, from the encodings of 30 R57, R60, R61 and R45. -/
def encode : Instr → List Byte
  | .scanC => [0b000#8]
  | .scanN => [0b001#8]
  | .dec3 => [0b010#8]
  | .dec4 => [0b011#8]
  | .valid => [0b100#8]
  | .brate => [0b101#8]
  | .srate => [0b110#8]
  | .reservedCmd7 => [0b111#8]
  | .frame => [0x00#8, 0b00010100#8]
  | .sync2 low => [0xFF#8, 0b111#3 ++ low]
  | .hdr32 h => bytesOfWord h
  | .rsvdVer h => bytesOfWord h
  | .rsvdLay h => bytesOfWord h
  | .rsvdBri h => bytesOfWord h
  | .rsvdSri h => bytesOfWord h
  | .rsvdEmph h => bytesOfWord h
  | .freeBri h => bytesOfWord h

/-- The instruction a decoder's answer holds, if any. -/
def Decoded.toOption : Decoded → Option Instr
  | .instr i => some i
  | .rejected _ => none

/-- The bytes of a table row's word of `nbits` bits, the most significant byte first (20 R33; log entry 4). -/
def tableBytes (nbits w : Nat) : List Byte :=
  let k := (nbits + 7) / 8
  (List.range k).map fun j => BitVec.ofNat 8 (w >>> (8 * (k - 1 - j)))

/-- Where a table row's word of `nbits` bits stands: up to 8 bits it is a command; up to 16 bits it is the 9-bit string
of a pseudo-operation when the bits above 9 are zero, and otherwise a stream word; longer words stand in the stream. -/
def tableSource (nbits w : Nat) : Source :=
  if nbits ≤ 8 then .command else if nbits ≤ 16 then (if w < 512 then .command else .stream) else .stream

/-- What the decoder reads from a table row's word, numbered as spec/opcode_table.json numbers it. -/
def decodeTableWord (nbits w : Nat) : Option Instr :=
  (decode (tableSource nbits w) (tableBytes nbits w)).toOption

end Sys2Proof
end

