-- ==== Sys2Proof/Config.lean ====
section
/-! DEFINITION. What an implementation of MP3FS fixes: the widths of 00 R7 and the two lookup tables as plain data, with the
properties of 42 R96 as predicates. The default contents are in Machine/Tables.lean. -/

namespace Sys2Proof.Config

/-- `CURSOR_WIDTH`, the bits of the cursor; the launch premise is `LEN < 2^CURSOR_WIDTH` (00 R7, decision D5). -/
def cursorWidth : Nat := 64

/-- `COUNT_WIDTH`, the bits of the host's valid-frame counter (00 R7, decision D22). -/
def countWidth : Nat := 64

end Sys2Proof.Config

namespace Sys2Proof

/-- The configuration tables `BitrateTable` and `SampleRateTable` (00 R7, decisions D14 and D15): a row of sixteen entries
per version class and layer (42 R87), a column of four per version (42 R91), index 0 first. -/
structure Tables where
  v1l1 : Vector Bitrate 16
  v1l2 : Vector Bitrate 16
  v1l3 : Vector Bitrate 16
  v2l1 : Vector Bitrate 16
  v2l2 : Vector Bitrate 16
  v2l3 : Vector Bitrate 16
  mpeg1 : Vector SampleRate 4
  mpeg2 : Vector SampleRate 4
  mpeg25 : Vector SampleRate 4
  deriving DecidableEq, Repr

end Sys2Proof
end

