-- ==== Sys2Proof/Machine/Tables.lean ====
section
/-! DEFINITION. Reading the two lookup tables, the properties of them that the spec names (42 R96), and their default
contents (42 R88, R92), every number of which the spec marks as from general knowledge (93 G6, G7; log entry 13). -/

namespace Sys2Proof

/-- The row of the bitrate table for a version class and a layer (42 R87). -/
def Tables.bitrateRow (T : Tables) : VersionClass → LayerKey → Vector Bitrate 16
  | .v1, .l1 => T.v1l1
  | .v1, .l2 => T.v1l2
  | .v1, .l3 => T.v1l3
  | .v2, .l1 => T.v2l1
  | .v2, .l2 => T.v2l2
  | .v2, .l3 => T.v2l3

/-- The column of the sample-rate table for a version (42 R91). -/
def Tables.sampleRateColumn (T : Tables) : VersionKey → Vector SampleRate 4
  | .mpeg1 => T.mpeg1
  | .mpeg2 => T.mpeg2
  | .mpeg25 => T.mpeg25

/-- `Tbl_BR[c][l][i]` (42 section 4). -/
def Tables.bitrate (T : Tables) (c : VersionClass) (l : LayerKey) (i : BitVec 4) : Bitrate :=
  (T.bitrateRow c l).get i.toFin

/-- `Tbl_SR[v][i]` (42 section 4). -/
def Tables.sampleRate (T : Tables) (v : VersionKey) (i : BitVec 2) : SampleRate :=
  (T.sampleRateColumn v).get i.toFin

/-- A positive number of bits per second (42 R86). -/
def Bitrate.isNumber : Bitrate → Bool
  | .bps n => n != 0
  | .free => false
  | .invalid => false

/-- A positive number of hertz (42 R86). -/
def SampleRate.isNumber : SampleRate → Bool
  | .hz n => n != 0
  | .reserved => false

end Sys2Proof

namespace Sys2Proof.Machine

/-- A table entry given in kbps; the stored value is bits per second (42 R86, decision D13). -/
def kbps (n : Nat) : Bitrate := .bps (BitVec.ofNat 32 (1000 * n))

/-- The default tables (42 R88, R92). -/
def defaultTables : Tables where
  v1l1 := #v[.free, kbps 32, kbps 64, kbps 96, kbps 128, kbps 160, kbps 192, kbps 224, kbps 256, kbps 288, kbps 320,
    kbps 352, kbps 384, kbps 416, kbps 448, .invalid]
  v1l2 := #v[.free, kbps 32, kbps 48, kbps 56, kbps 64, kbps 80, kbps 96, kbps 112, kbps 128, kbps 160, kbps 192,
    kbps 224, kbps 256, kbps 320, kbps 384, .invalid]
  v1l3 := #v[.free, kbps 32, kbps 40, kbps 48, kbps 56, kbps 64, kbps 80, kbps 96, kbps 112, kbps 128, kbps 160,
    kbps 192, kbps 224, kbps 256, kbps 320, .invalid]
  v2l1 := #v[.free, kbps 32, kbps 48, kbps 56, kbps 64, kbps 80, kbps 96, kbps 112, kbps 128, kbps 144, kbps 160,
    kbps 176, kbps 192, kbps 224, kbps 256, .invalid]
  v2l2 := #v[.free, kbps 8, kbps 16, kbps 24, kbps 32, kbps 40, kbps 48, kbps 56, kbps 64, kbps 80, kbps 96,
    kbps 112, kbps 128, kbps 144, kbps 160, .invalid]
  v2l3 := #v[.free, kbps 8, kbps 16, kbps 24, kbps 32, kbps 40, kbps 48, kbps 56, kbps 64, kbps 80, kbps 96,
    kbps 112, kbps 128, kbps 144, kbps 160, .invalid]
  mpeg1 := #v[.hz 44100, .hz 48000, .hz 32000, .reserved]
  mpeg2 := #v[.hz 22050, .hz 24000, .hz 16000, .reserved]
  mpeg25 := #v[.hz 11025, .hz 12000, .hz 8000, .reserved]

end Sys2Proof.Machine

namespace Sys2Proof

/-- 42 R96 (P1): index 15 is the INVALID sentinel in every row. -/
def Tables.P1 (T : Tables) : Prop := ∀ c l, T.bitrate c l 0b1111#4 = .invalid

/-- 42 R96 (P2): index 0 is the FREE sentinel in every row. -/
def Tables.P2 (T : Tables) : Prop := ∀ c l, T.bitrate c l 0b0000#4 = .free

/-- 42 R96 (P3): indices 1 to 14 are positive numbers in every row. -/
def Tables.P3 (T : Tables) : Prop :=
  ∀ c l i, i ≠ 0b0000#4 → i ≠ 0b1111#4 → ∃ n, 0 < n.toNat ∧ T.bitrate c l i = .bps n

/-- 42 R96 (P4): sample-rate index 3 is RESERVED and the others are positive numbers, for all three versions. -/
def Tables.P4 (T : Tables) : Prop :=
  ∀ v, T.sampleRate v 0b11#2 = .reserved ∧ ∀ i, i ≠ 0b11#2 → ∃ n, 0 < n.toNat ∧ T.sampleRate v i = .hz n

/-- 42 R96 (P5): the LAYER_2 rows have the values of 42 R88. -/
def Tables.P5 (T : Tables) : Prop := ∀ c i, T.bitrate c .l2 i = Machine.defaultTables.bitrate c .l2 i

/-- A row of the bitrate table has the sentinels and the numbers that P1, P2 and P3 ask for. -/
def bitrateRowOk (r : Vector Bitrate 16) : Bool :=
  r[0] == .free && r[15] == .invalid && (r.toList.tail.take 14).all Bitrate.isNumber

/-- A column of the sample-rate table has the sentinel and the numbers that P4 asks for. -/
def sampleRateColumnOk (r : Vector SampleRate 4) : Bool :=
  r[3] == .reserved && (r.toList.take 3).all SampleRate.isNumber

/-- The launch premise L4 on the tables, the properties P1 to P5 as a test (70 R143). -/
def Tables.ok (T : Tables) : Bool :=
  bitrateRowOk T.v1l1 && bitrateRowOk T.v1l2 && bitrateRowOk T.v1l3 && bitrateRowOk T.v2l1 && bitrateRowOk T.v2l2 &&
    bitrateRowOk T.v2l3 && sampleRateColumnOk T.mpeg1 && sampleRateColumnOk T.mpeg2 && sampleRateColumnOk T.mpeg25 &&
    T.v1l2 == Machine.defaultTables.v1l2 && T.v2l2 == Machine.defaultTables.v2l2

end Sys2Proof
end

