-- ==== Sys2Proof/Machine/State.lean ====
section
/-! DEFINITION. The state of MP3FS as plain data (10 R10), the reasons a step can stop, and the state after reset. -/

namespace Sys2Proof.Machine

/-- Result codes of `STATUS.RES` (10 R18). -/
inductive Result where
  | rNone | rMatch | rNoMatch | rDecoded | rIncomplete | rValid | rInvalid | rLookup | eNoHdr | eBadKey | eBadCmd
  deriving DecidableEq, Repr

/-- `STATUS.REASON`: none, or a FrameInvalidationReason in priority order (43 R101). -/
inductive Reason where
  | noReason
  | invalidMpegVersion
  | invalidLayer
  | invalidBitrateForVersion
  | invalidSampleRateForVersion
  | invalidLayerIIBitrateAndMode
  | invalidEmphasis
  deriving DecidableEq, Repr

/-- `DOUT.tag` (10 R20). -/
inductive DoutTag where
  | value | free | invalid | reserved
  deriving DecidableEq, Repr

/-- The data-out register `DOUT` (10 R20). -/
structure Dout where
  tag : DoutTag
  val : BitVec 32
  deriving DecidableEq, Repr

/-- The input stream: the bytes of `S` as cells with strictly rising indices and no zero byte listed, and `LEN`; an index
below `LEN` that is not listed holds 00 (20 R30; log entry 11). -/
structure Stream where
  cells : List Host.Cell
  len : Nat
  deriving DecidableEq, Repr

/-- One request of the host (00 R4, R6; DESIGN CHOICE, log entries 1 and 3). -/
inductive Request where
  /-- The host presents the bytes of a command or of the pseudo-operation FRAME. -/
  | issue (bytes : List Byte)
  /-- Run the SYNC2 row on the two bytes at the cursor. -/
  | syncAtCursor
  /-- Run the header row of the four-byte word at the cursor. -/
  | headerAtCursor
  /-- Run one iteration of the driver loop with the other pairing, SCAN.N, DEC4, VALID (44 R124). -/
  | otherFrame
  deriving DecidableEq, Repr

/-- One report of the driver, `report(OFFSET, H, REASON)` (44 R116). -/
structure Report where
  offset : Nat
  header : Word
  reason : Reason
  deriving DecidableEq, Repr

/-- How a run of the driver loop ended (44 R116, R120). -/
inductive RunEnd where
  | endOfInput | truncated
  deriving DecidableEq, Repr

/-- The state: the registers of 10 R10, the launch inputs `S` and the tables, the host's state of 10 R22 and the host's pending requests. -/
structure State where
  /-- `S` and `LEN` (00 R7); no step changes it. -/
  stream : Stream
  /-- The two lookup tables, the configuration of 00 R7; no step changes them (log entry 20). -/
  tables : Tables
  /-- `CUR`, the index of the next byte a consuming read returns (10 R11). -/
  cur : Nat
  /-- The stored bits of `H` (10 R13); read through `State.readH`. -/
  h : Word
  /-- `STATUS.RES` (10 R18). -/
  res : Result
  /-- `STATUS.MATCH` (10 R16). -/
  matched : Bool
  /-- `STATUS.HDRV` (10 R15). -/
  hdrv : Bool
  /-- `STATUS.RV` (10 R17). -/
  rv : Bool
  /-- `STATUS.REASON` (10 R17). -/
  reason : Reason
  /-- `DOUT` (10 R20). -/
  dout : Dout
  /-- The host's requests not yet issued, the next first (log entry 3). -/
  port : List Request
  /-- The host's `VCOUNT` (44 R118). -/
  vcount : Nat
  /-- The host's `OFFSET` (44 R117). -/
  offset : Nat
  /-- The reports of the run, in order (44 R120). -/
  reports : List Report
  /-- The first end the run came to, if any (44 R120). -/
  runEnd : Option RunEnd
  deriving DecidableEq, Repr

/-- Reasons a step stops with a fault. -/
inductive Fault where
  /-- Raised by a scan that reads at an index past `LEN`, where `MemRead` has no value (20 R31, U19). It happens only when
  `CUR > LEN`, which is no launch state (U21) and which no step reaches. Safe (log entry 15). -/
  | readPastEnd
  deriving DecidableEq, Repr

/-- Reasons a step has no meaning. -/
inductive Refusal where
  /-- Raised by an arm of `exec` whose instruction has no meaning yet; no arm is. Safe. -/
  | notModelled (mnemonic : String)
  /-- Raised by the step when the next request is no row of the opcode table: the host can ask for nothing else
  (30 R56). Safe (log entry 17). -/
  | undecodable (r : Reject)
  deriving DecidableEq, Repr

/-- The registers after reset, on a stream and tables, with `CUR = cur0` (10 R24). `H`, `DOUT` and `OFFSET` are unspecified there: the zeros are
DESIGN CHOICE, log entries 6, 7 and 8. -/
def State.launchState (S : Stream) (T : Tables) (cur0 : Nat) : State where
  stream := S
  tables := T
  cur := cur0
  h := 0
  res := .rNone
  matched := false
  hdrv := false
  rv := false
  reason := .noReason
  dout := ⟨.value, 0⟩
  port := []
  vcount := 0
  offset := 0
  reports := []
  runEnd := none

/-- The machine right after reset (10 R24) with `CUR0 = 0` and the default tables; the stream is a launch input with no
default, empty here (DESIGN CHOICE, log entry 11). -/
def State.reset : State := State.launchState ⟨[], 0⟩ defaultTables 0

end Sys2Proof.Machine
end

