-- ==== Sys2Proof/Machine/Memory.lean ====
section
/-! DEFINITION. The input stream as a sparse list of cells in canonical form: the one-byte read `MemRead` (20 R31), and
the placing of bytes, which happens at launch only (70 R142). -/

namespace Sys2Proof.Machine

/-- The canonical form: addresses strictly rising and no cell that holds 00, the value of an unlisted address. -/
def Memory.wf : List Host.Cell → Bool
  | [] => true
  | (x, v) :: rest => v != 0 && rest.all (fun c => decide (x < c.1)) && Memory.wf rest

/-- The byte at an address; 00 where nothing is listed (log entry 11). -/
def Memory.read : List Host.Cell → Nat → Byte
  | [], _ => 0
  | (x, v) :: rest, a => if a = x then v else Memory.read rest a

/-- Put a byte at an address, keeping the canonical form: 00 removes the entry. -/
def Memory.write : List Host.Cell → Nat → Byte → List Host.Cell
  | [], a, b => if b = 0 then [] else [(a, b)]
  | (x, v) :: rest, a, b =>
    if a < x then (if b = 0 then (x, v) :: rest else (a, b) :: (x, v) :: rest)
    else if a = x then (if b = 0 then rest else (a, b) :: rest)
    else (x, v) :: Memory.write rest a b

/-- A stream is well-formed when its cells are canonical and lie below `LEN`. -/
def Stream.wf (S : Stream) : Bool := Memory.wf S.cells && S.cells.all (fun c => decide (c.1 < S.len))

/-- `MemRead(a, 1)`: the byte `S[a]`, and no value outside `0 <= a < LEN` (20 R31). -/
def Stream.byteAt (S : Stream) (a : Nat) : Option Byte :=
  if a < S.len then some (Memory.read S.cells a) else none

/-- The `n` bytes from index `a`, in ascending order, when all of them exist (20 R31). -/
def Stream.bytesAt (S : Stream) (a n : Nat) : Option (List Byte) :=
  if a + n ≤ S.len then some ((List.range n).map fun k => Memory.read S.cells (a + k)) else none

/-- Put one byte at an index, growing the stream to hold it. Launch only. -/
def Stream.put (S : Stream) (a : Nat) (b : Byte) : Stream :=
  ⟨Memory.write S.cells a b, max S.len (a + 1)⟩

/-- Put bytes at consecutive indices. Launch only (70 R142; log entry 12). -/
def Stream.place (S : Stream) : Nat → List Byte → Stream
  | _, [] => S
  | a, b :: rest => Stream.place (Stream.put S a b) (a + 1) rest

/-- The stream of a byte sequence, index 0 first. -/
def Stream.ofBytes (bytes : List Byte) : Stream := Stream.place ⟨[], 0⟩ 0 bytes

/-- Launch on a stream and tables at a cursor: the reset state when premises L1 and L4 hold, and no state otherwise
(70 R142, R143, U21). -/
def State.launch (S : Stream) (T : Tables) (cur0 : Nat) : Option State :=
  if Stream.wf S = true ∧ T.ok = true ∧ cur0 ≤ S.len ∧ S.len < 2 ^ Config.cursorWidth then
    some (State.launchState S T cur0)
  else none

/-- The reset event on a running machine: every register at its launch value, the stream and the
tables kept (70 R140, R141). How it is
signalled is not specified (U27), so no request causes it (log entry 18). -/
def State.restart (s : State) (cur0 : Nat) : Option State := State.launch s.stream s.tables cur0

end Sys2Proof.Machine
end

