-- ==== Sys2Proof/Machine/Operands.lean ====
section
/-! DEFINITION. What the operations read: the field views of the header word (10 R14, 30 R46), their typed values
(30 R48 to R53, 41 R82), the two table lookups (42 section 4) and the header register. -/

namespace Sys2Proof.Machine

/-- `SYNC = H[31:21]` (30 R46). -/
def syncBits (h : Word) : BitVec 11 := h.extractLsb' 21 11
/-- `VER = H[20:19]` (30 R46). -/
def verBits (h : Word) : BitVec 2 := h.extractLsb' 19 2
/-- `LAY = H[18:17]` (30 R46). -/
def layBits (h : Word) : BitVec 2 := h.extractLsb' 17 2
/-- `PROT = H[16]` (30 R46). -/
def protBit (h : Word) : BitVec 1 := h.extractLsb' 16 1
/-- `BRI = H[15:12]` (30 R46). -/
def briBits (h : Word) : BitVec 4 := h.extractLsb' 12 4
/-- `SRI = H[11:10]` (30 R46). -/
def sriBits (h : Word) : BitVec 2 := h.extractLsb' 10 2
/-- `PAD = H[9]` (30 R46). -/
def padBit (h : Word) : BitVec 1 := h.extractLsb' 9 1
/-- `PRIV = H[8]` (30 R46). -/
def privBit (h : Word) : BitVec 1 := h.extractLsb' 8 1
/-- `MODE = H[7:6]` (30 R46). -/
def modeBits (h : Word) : BitVec 2 := h.extractLsb' 6 2
/-- `MEXT = H[5:4]` (30 R46). -/
def mextBits (h : Word) : BitVec 2 := h.extractLsb' 4 2
/-- `COPY = H[3]` (30 R46). -/
def copyBit (h : Word) : BitVec 1 := h.extractLsb' 3 1
/-- `ORIG = H[2]` (30 R46). -/
def origBit (h : Word) : BitVec 1 := h.extractLsb' 2 1
/-- `EMPH = H[1:0]` (30 R46). -/
def emphBits (h : Word) : BitVec 2 := h.extractLsb' 0 2

/-- The code points of VER (30 R48; all but `0b11` from general knowledge, 93 G1; log entry 14). -/
def versionOf (v : BitVec 2) : AudioVersion :=
  match v.toNat with
  | 0 => .mpeg25
  | 1 => .invalid
  | 2 => .mpeg2
  | _ => .mpeg1

/-- The code points of LAY (30 R49; all but `0b01` from general knowledge, 93 G2; log entry 14). -/
def layerOf (v : BitVec 2) : Layer :=
  match v.toNat with
  | 0 => .invalid
  | 1 => .layer3
  | 2 => .layer2
  | _ => .layer1

/-- The code points of MODE (30 R52; from general knowledge, 93 G3; log entry 14). -/
def modeOf (v : BitVec 2) : ChannelMode :=
  match v.toNat with
  | 0 => .stereo
  | 1 => .joint
  | 2 => .dual
  | _ => .single

/-- The code points of EMPH (30 R53, decision D11; names from general knowledge, 93 G4; log entry 14). -/
def emphasisOf (v : BitVec 2) : Emphasis :=
  match v.toNat with
  | 0 => .noEmphasis
  | 1 => .ms5015
  | 2 => .invalid
  | _ => .ccitJ17

/-- The typed header (41 R82). -/
structure Fields where
  sync : BitVec 11
  version : AudioVersion
  layer : Layer
  protection : Bool
  bri : BitVec 4
  sri : BitVec 2
  padding : Bool
  privateBit : Bool
  mode : ChannelMode
  mext : BitVec 2
  copyright : Bool
  original : Bool
  emphasis : Emphasis
  deriving DecidableEq, Repr

/-- `Fields(H)` (41 R82); total on all 32-bit words. -/
def fields (h : Word) : Fields where
  sync := syncBits h
  version := versionOf (verBits h)
  layer := layerOf (layBits h)
  protection := protBit h == 1#1
  bri := briBits h
  sri := sriBits h
  padding := padBit h == 1#1
  privateBit := privBit h == 1#1
  mode := modeOf (modeBits h)
  mext := mextBits h
  copyright := copyBit h == 1#1
  original := origBit h == 1#1
  emphasis := emphasisOf (emphBits h)

/-- The sample-rate table's key of a version; the reserved version is no key (42 R91). -/
def versionKey? : AudioVersion → Option VersionKey
  | .mpeg1 => some .mpeg1
  | .mpeg2 => some .mpeg2
  | .mpeg25 => some .mpeg25
  | .invalid => none

/-- The version class of a version key: MPEG_1, or the other versions (42 R87). -/
def versionClass : VersionKey → VersionClass
  | .mpeg1 => .v1
  | .mpeg2 => .v2
  | .mpeg25 => .v2

/-- The bitrate table's key of a layer; the reserved layer is no key (42 R87). -/
def layerKey? : Layer → Option LayerKey
  | .layer1 => some .l1
  | .layer2 => some .l2
  | .layer3 => some .l3
  | .invalid => none

/-- `BitrateOf(H)`, with no value where the version or the layer is reserved (42 section 4). -/
def bitrateOf (T : Tables) (h : Word) : Option Bitrate :=
  match versionKey? (fields h).version, layerKey? (fields h).layer with
  | some v, some l => some (T.bitrate (versionClass v) l (fields h).bri)
  | _, _ => none

/-- `SampleRateOf(H)`, with no value where the version is reserved (42 section 4). -/
def sampleRateOf (T : Tables) (h : Word) : Option SampleRate :=
  match versionKey? (fields h).version with
  | some v => some (T.sampleRate v (fields h).sri)
  | none => none

/-- `DOUT` for a resolved bitrate (42 R94); a sentinel writes 0 into `val` (10 R20). -/
def doutOfBitrate : Bitrate → Dout
  | .bps n => ⟨.value, n⟩
  | .free => ⟨.free, 0⟩
  | .invalid => ⟨.invalid, 0⟩

/-- `DOUT` for a resolved sample rate (42 R95). -/
def doutOfSampleRate : SampleRate → Dout
  | .hz n => ⟨.value, n⟩
  | .reserved => ⟨.reserved, 0⟩

/-- What a reader of `H` gets: the header while `HDRV = 1`, and no value otherwise (10 R15). -/
def State.readH (s : State) : Option Word := if s.hdrv then some s.h else none

end Sys2Proof.Machine
end

