-- ==== Sys2Proof/Machine/Flags.lean ====
section
/-! DEFINITION. The status register: the numeric codes of its fields (10 R18, 43 R101, 10 R20) and its 16-bit word
(10 R19); the validator's rule chain, which computes `REASON` (43 R105). -/

namespace Sys2Proof.Machine

/-- The numeric code of a result (10 R18). -/
def Result.code : Result → BitVec 4
  | .rNone => 0
  | .rMatch => 1
  | .rNoMatch => 2
  | .rDecoded => 3
  | .rIncomplete => 4
  | .rValid => 5
  | .rInvalid => 6
  | .rLookup => 7
  | .eNoHdr => 8
  | .eBadKey => 9
  | .eBadCmd => 10

/-- The numeric code of a reason (43 R101). -/
def Reason.code : Reason → BitVec 3
  | .noReason => 0
  | .invalidMpegVersion => 1
  | .invalidLayer => 2
  | .invalidBitrateForVersion => 3
  | .invalidSampleRateForVersion => 4
  | .invalidLayerIIBitrateAndMode => 5
  | .invalidEmphasis => 6

/-- The numeric code of a tag (10 R20). -/
def DoutTag.code : DoutTag → BitVec 2
  | .value => 0
  | .free => 1
  | .invalid => 2
  | .reserved => 3

/-- The status word as the host reads it: `[3:0] RES`, `[4] MATCH`, `[5] HDRV`, `[6] RV`, `[9:7] REASON`, `[15:10]` zero
(10 R19). -/
def State.status (s : State) : BitVec 16 :=
  0#6 ++ s.reason.code ++ BitVec.ofBool s.rv ++ BitVec.ofBool s.hdrv ++ BitVec.ofBool s.matched ++ s.res.code

/-- The Layer II bitrate and channel-mode exclusion, step 5 of the validator (43 R108). The FREE sentinel is not a number
and passes (decision D12). -/
def layerTwoExcluded (l : LayerKey) (m : ChannelMode) : Bitrate → Bool
  | .bps n =>
    l == .l2 &&
      (if m = .single then decide (224000 ≤ n.toNat)
        else (decide (32000 ≤ n.toNat) && decide (n.toNat ≤ 56000)) || n.toNat == 80000)
  | .free => false
  | .invalid => false

/-- `Validate(H)`, six steps in fixed order, the first that matches (43 R105). The table keys exist from step 3 on, the
reserved ones having been reported by steps 1 and 2 (43 R103). -/
def validate (T : Tables) (h : Word) : Reason :=
  match versionKey? (fields h).version, layerKey? (fields h).layer with
  | none, _ => .invalidMpegVersion
  | some _, none => .invalidLayer
  | some v, some l =>
    let br := T.bitrate (versionClass v) l (fields h).bri
    if br = .invalid then .invalidBitrateForVersion
    else if T.sampleRate v (fields h).sri = .reserved then .invalidSampleRateForVersion
    else if layerTwoExcluded l (fields h).mode br then .invalidLayerIIBitrateAndMode
    else if (fields h).emphasis = .invalid then .invalidEmphasis
    else .noReason

/-- The result of `VALID` for a reason (43 R104). -/
def resultOfReason (r : Reason) : Result := if r = .noReason then .rValid else .rInvalid

end Sys2Proof.Machine
end

