-- ==== Sys2Proof/Machine/Ops.lean ====
section
/-! DEFINITION. The named state updates and the shared operations: ending an operation with a refusal code, which is all
the "trap entry" this block has (60 R125), the scan (40 R66), the decode (41 R76), the lookup (42 R94, R95), the
validation (43 R104) and the host's bookkeeping (44 R116). -/

namespace Sys2Proof.Machine

/-- What an operation answers. -/
abbrev Out := Host.Outcome State Fault Refusal

/-- Run the next operation of a sequence from the state the one before it left; a stop stays. -/
def andThen (o : Out) (f : State → Out) : Out :=
  match o with
  | .next s => f s
  | .fault r => .fault r
  | .refused r => .refused r

/-- End an operation with a refusal code: `RES` alone is written (60 R125, R129 to R131). There is no saved state, no
mode and no return (60 R134, R135). -/
def State.refuse (s : State) (c : Result) : State := { s with res := c }

/-- A scan that found a sync, with its cursor placement (40 R66). -/
def State.scanHit (s : State) (cur : Nat) : State := { s with cur := cur, matched := true, res := .rMatch }

/-- A scan that ran out of input (40 R66, decision D6). -/
def State.scanMiss (s : State) : State := { s with cur := s.stream.len, matched := false, res := .rNoMatch }

/-- A decode with too few bytes (41 R76, decision D7): `H` keeps its bits and is unreadable. -/
def State.incomplete (s : State) : State :=
  { s with cur := s.stream.len, hdrv := false, rv := false, reason := .noReason, res := .rIncomplete }

/-- A decode that assembled the header `h` from a window of `n` bytes (41 R76). -/
def State.loadHeader (s : State) (n : Nat) (h : Word) : State :=
  { s with cur := s.cur + n, h := h, hdrv := true, rv := false, reason := .noReason, res := .rDecoded }

/-- The validator's verdict latched (43 R104). -/
def State.setVerdict (s : State) (r : Reason) : State := { s with reason := r, rv := true, res := resultOfReason r }

/-- A lookup's result latched (42 R94, R95). -/
def State.setDout (s : State) (d : Dout) : State := { s with dout := d, res := .rLookup }

/-- The host takes its next request off the list (log entry 3). -/
def State.setPort (s : State) (rest : List Request) : State := { s with port := rest }

/-- The host reads `OFFSET` from the cursor (44 R116, R117). -/
def State.takeOffset (s : State) : State := { s with offset := s.cur }

/-- The host reports the header and counts it when it is spec-valid (44 R116, R118). -/
def State.makeReport (s : State) : State :=
  { s with reports := s.reports ++ [⟨s.offset, s.h, s.reason⟩],
           vcount := if s.res = .rValid then s.vcount + 1 else s.vcount }

/-- The run's end, the first one kept (44 R116, R120; log entry 5). -/
def State.stopRun (s : State) (e : RunEnd) : State :=
  { s with runEnd := match s.runEnd with
                     | some e' => some e'
                     | none => some e }

/-- How the scan loop ends. -/
inductive ScanEnd where
  | found (i : Nat)
  | exhausted
  | stuck
  deriving DecidableEq, Repr

/-- The top three bits of a byte are all set (00 section 6, 40 R66). -/
def topThreeSet (b : Byte) : Bool := b.extractLsb' 5 3 == 0b111#3

/-- The loop of `Scan(n)` (40 R66), with fuel for its iterations (40 R70). It answers the index of the fully-set byte of
the match. `stuck` stands for a read past `LEN`, where `MemRead` has no value (20 R31). -/
def scanFrom (S : Stream) : Nat → Nat → ScanEnd
  | 0, _ => .stuck
  | fuel + 1, cur =>
    if cur = S.len then .exhausted
    else match Stream.byteAt S cur with
      | none => .stuck
      | some b =>
        if b ≠ 0xFF#8 then scanFrom S fuel (cur + 1)
        else if cur + 1 = S.len then .exhausted
        else match Stream.byteAt S (cur + 1) with
          | none => .stuck
          | some p => if topThreeSet p then .found cur else scanFrom S fuel (cur + 2)

/-- Both scan operations (40 R66): `consumed` is 1 where the cursor stays one past the fully-set byte, and 0 where the
one-byte pushback puts it back on it. -/
def scan (consumed : Nat) (s : State) : Out :=
  match scanFrom s.stream (s.stream.len - s.cur + 1) s.cur with
  | .found i => .next (s.scanHit (i + consumed))
  | .exhausted => .next s.scanMiss
  | .stuck => .fault .readPastEnd

/-- Header bytes B1, B2, B3 from index `k` joined to B0 (41 R76), a window of `n` bytes having been found complete. -/
def decodeTail (b0 : Byte) (k n : Nat) (s : State) : Out :=
  match s.stream.byteAt k, s.stream.byteAt (k + 1), s.stream.byteAt (k + 2) with
  | some b1, some b2, some b3 => .next (s.loadHeader n (wordOfBytes b0 b1 b2 b3))
  | _, _, _ => .fault .readPastEnd

/-- `Decode(0)`: the three-byte window, B0 supplied as FF (41 R76, R77). -/
def decodeThree (s : State) : Out :=
  if s.stream.len - s.cur < 3 then .next s.incomplete else decodeTail 0xFF#8 s.cur 3 s

/-- `Decode(1)`: the four-byte window (41 R76, R78). -/
def decodeFour (s : State) : Out :=
  if s.stream.len - s.cur < 4 then .next s.incomplete
  else match s.stream.byteAt s.cur with
    | none => .fault .readPastEnd
    | some b0 => decodeTail b0 (s.cur + 1) 4 s

/-- Run an operation that takes the header, or refuse it when none is held (10 R15, 60 R129). -/
def withHeader (s : State) (f : Word → Out) : Out :=
  match s.readH with
  | none => .next (s.refuse .eNoHdr)
  | some h => f h

/-- A table accessor (42 R94, R95): `E_NOHDR`, then `E_BADKEY`, then the result into `DOUT` (60 R133). -/
def lookup (s : State) (f : Word → Option Dout) : Out :=
  withHeader s fun h =>
    match f h with
    | none => .next (s.refuse .eBadKey)
    | some d => .next (s.setDout d)

/-- Validate the header in `H` (43 R104). -/
def validateHeader (s : State) : Out :=
  withHeader s fun h => .next (s.setVerdict (validate s.tables h))

/-- The header word `h` read at the cursor, decoded as a four-byte window and validated (30 R54, 44 R124). With fewer than
four bytes left the decode is incomplete and the sequence stops (44 R116). DESIGN CHOICE, log entry 1. -/
def runHeaderWord (h : Word) (s : State) : Out :=
  if s.stream.len - s.cur < 4 then .next s.incomplete else validateHeader (s.loadHeader 4 h)

/-- The sync pattern read at the cursor: the consuming scan matches here (30 R61, 40 R67). DESIGN CHOICE, log entry 1. -/
def runSyncWord (s : State) : Out :=
  if s.stream.len - s.cur < 2 then .next s.scanMiss else .next (s.scanHit (s.cur + 1))

end Sys2Proof.Machine
end

