-- ==== Sys2Proof/Machine/HeaderDecode.lean ====
section
/-! DEFINITION. The decode family: DEC3 and DEC4 (41). -/

namespace Sys2Proof.Machine

/-- DEC3, `Decode(0)` (41 R77). -/
def execDec3 (s : State) : Host.Outcome State Fault Refusal := decodeThree s

/-- DEC4, `Decode(1)` (41 R78). -/
def execDec4 (s : State) : Host.Outcome State Fault Refusal := decodeFour s

end Sys2Proof.Machine
end

