-- ==== Sys2Proof/Machine/Scan.lean ====
section
/-! DEFINITION. The scan family: SCAN.C and SCAN.N (40). -/

namespace Sys2Proof.Machine

/-- SCAN.C, `Scan(0)` (40 R67). -/
def execScanC (s : State) : Host.Outcome State Fault Refusal := scan 1 s

/-- SCAN.N, `Scan(1)` (40 R68). -/
def execScanN (s : State) : Host.Outcome State Fault Refusal := scan 0 s

end Sys2Proof.Machine
end

