-- ==== Sys2Proof/Machine/Validate.lean ====
section
/-! DEFINITION. The validate family: VALID (43). -/

namespace Sys2Proof.Machine

/-- VALID (43 R104). -/
def execValid (s : State) : Host.Outcome State Fault Refusal := validateHeader s

end Sys2Proof.Machine
end

