-- ==== Sys2Proof/Machine/Driver.lean ====
section
/-! DEFINITION. The driver's loop with the host's bookkeeping: the pseudo-operation FRAME, and the same iteration with the
other pairing (44). -/

namespace Sys2Proof.Machine

/-- One iteration of the driver loop over a scan and a decode: the two stop tests, `OFFSET`, VALID, the report and the
count (44 R116). One step of the model (DESIGN CHOICE, log entry 5). -/
def driverIteration (scanOp decodeOp : State → Out) (s : State) : Out :=
  andThen (scanOp s) fun s1 =>
    if s1.res = .rNoMatch then .next (s1.stopRun .endOfInput)
    else andThen (decodeOp s1) fun s2 =>
      if s2.res = .rIncomplete then .next (s2.stopRun .truncated)
      else andThen (execValid s2.takeOffset) fun s3 => .next s3.makeReport

/-- FRAME: the iteration over SCAN.C and DEC3 (30 R60, 44 R116). -/
def execFrame (s : State) : Host.Outcome State Fault Refusal := driverIteration execScanC execDec3 s

/-- The iteration over the other pairing, SCAN.N and DEC4 (44 R124); a host's loop, no row of the opcode table. -/
def runOtherFrame (s : State) : Host.Outcome State Fault Refusal := driverIteration execScanN execDec4 s

end Sys2Proof.Machine
end

