-- ==== Sys2Proof/Machine/Lookup.lean ====
section
/-! DEFINITION. The table family: BRATE and SRATE (42). -/

namespace Sys2Proof.Machine

/-- BRATE (42 R94). -/
def execBrate (s : State) : Host.Outcome State Fault Refusal :=
  lookup s fun h => (bitrateOf s.tables h).map doutOfBitrate

/-- SRATE (42 R95). -/
def execSrate (s : State) : Host.Outcome State Fault Refusal :=
  lookup s fun h => (sampleRateOf s.tables h).map doutOfSampleRate

end Sys2Proof.Machine
end

