-- ==== Sys2Proof/Machine/Reserved.lean ====
section
/-! DEFINITION. The reserved command code 7 (30 R58, 60 R131). -/

namespace Sys2Proof.Machine

/-- RESERVED.CMD7: `RES <- E_BADCMD`, nothing else changes (60 R131). -/
def execReservedCmd7 (s : State) : Host.Outcome State Fault Refusal := .next (s.refuse .eBadCmd)

end Sys2Proof.Machine
end

