-- ==== Sys2Proof/Machine/StreamWords.lean ====
section
/-! DEFINITION. The rows of the opcode table that are patterns of stream words, run on the word read at the cursor: the
sync pattern by the consuming scan, a header word by the four-byte decode and the validator (30 R45, R54, R61, 42 R89).
DESIGN CHOICE, log entry 1. -/

namespace Sys2Proof.Machine

/-- SYNC2 (30 R61); the scanner does not look at the five free bits (40 R74). -/
def execSync2 (_low : BitVec 5) (s : State) : Host.Outcome State Fault Refusal := runSyncWord s

/-- HDR32: a word with the sync pattern is spec-valid or has exactly one reason (30 R45, R54). -/
def execHdr32 (h : Word) (s : State) : Host.Outcome State Fault Refusal := runHeaderWord h s

/-- HDR32.RSVD.VER: decoded in full, reason INVALID_MPEG_VERSION (30 R54). -/
def execRsvdVer (h : Word) (s : State) : Host.Outcome State Fault Refusal := runHeaderWord h s

/-- HDR32.RSVD.LAY: decoded in full, reason INVALID_LAYER unless an earlier step matches (30 R54). -/
def execRsvdLay (h : Word) (s : State) : Host.Outcome State Fault Refusal := runHeaderWord h s

/-- HDR32.RSVD.BRI: decoded in full, reason INVALID_BITRATE_FOR_VERSION unless an earlier step matches (30 R54). -/
def execRsvdBri (h : Word) (s : State) : Host.Outcome State Fault Refusal := runHeaderWord h s

/-- HDR32.RSVD.SRI: decoded in full, reason INVALID_SAMPLERATE_FOR_VERSION unless an earlier step matches (30 R54). -/
def execRsvdSri (h : Word) (s : State) : Host.Outcome State Fault Refusal := runHeaderWord h s

/-- HDR32.RSVD.EMPH: decoded in full, reason INVALID_EMPHASIS unless an earlier step matches (30 R54). -/
def execRsvdEmph (h : Word) (s : State) : Host.Outcome State Fault Refusal := runHeaderWord h s

/-- HDR32.FREE.BRI: free format is not reserved and is accepted by the validator's steps 3 and 5 (42 R89, 43 R107). -/
def execFreeBri (h : Word) (s : State) : Host.Outcome State Fault Refusal := runHeaderWord h s

end Sys2Proof.Machine
end

