-- ==== Sys2Proof/Machine/Dispatch.lean ====
section
/-! DEFINITION. The dispatch: one arm per row of spec/opcode_table.json. -/

namespace Sys2Proof.Machine

def exec (i : Instr) (s : State) : Host.Outcome State Fault Refusal :=
  match i with
  | .scanC => Sys2Proof.Machine.execScanC s
  | .scanN => Sys2Proof.Machine.execScanN s
  | .dec3 => Sys2Proof.Machine.execDec3 s
  | .dec4 => Sys2Proof.Machine.execDec4 s
  | .valid => Sys2Proof.Machine.execValid s
  | .brate => Sys2Proof.Machine.execBrate s
  | .srate => Sys2Proof.Machine.execSrate s
  | .reservedCmd7 => Sys2Proof.Machine.execReservedCmd7 s
  | .frame => Sys2Proof.Machine.execFrame s
  | .hdr32 h => Sys2Proof.Machine.execHdr32 h s
  | .sync2 low => Sys2Proof.Machine.execSync2 low s
  | .rsvdVer h => Sys2Proof.Machine.execRsvdVer h s
  | .rsvdLay h => Sys2Proof.Machine.execRsvdLay h s
  | .rsvdBri h => Sys2Proof.Machine.execRsvdBri h s
  | .rsvdSri h => Sys2Proof.Machine.execRsvdSri h s
  | .rsvdEmph h => Sys2Proof.Machine.execRsvdEmph h s
  | .freeBri h => Sys2Proof.Machine.execFreeBri h s

end Sys2Proof.Machine
end

