-- ==== Sys2Proof/Machine/Fetch.lean ====
section
/-! DEFINITION. Fetching the next instruction's bytes: from the host's next request, or from the stream at the cursor
(log entries 1 and 3). -/

namespace Sys2Proof.Machine

/-- What a fetch finds. -/
inductive Fetched where
  /-- The host asks for nothing. -/
  | idle
  /-- The bytes of an instruction and the requests that follow. -/
  | bytes (src : Source) (bs : List Byte) (rest : List Request)
  /-- The host runs an iteration of its loop with the other pairing; the requests that follow. -/
  | otherFrame (rest : List Request)
  /-- The word at the cursor runs off the end of input, which is a result and never a fault (20 R35). -/
  | ranOff (t : State)
  deriving DecidableEq, Repr

/-- The next instruction's bytes. A word that runs off the end of input ends as its operation does: R_NO_MATCH for the
sync pattern, R_INCOMPLETE for a header (20 R35; log entry 19). -/
def fetch (s : State) : Fetched :=
  match s.port with
  | [] => .idle
  | .issue bs :: rest => .bytes .command bs rest
  | .otherFrame :: rest => .otherFrame rest
  | .syncAtCursor :: rest =>
    match s.stream.bytesAt s.cur 2 with
    | some bs => .bytes .stream bs rest
    | none => .ranOff (s.setPort rest).scanMiss
  | .headerAtCursor :: rest =>
    match s.stream.bytesAt s.cur 4 with
    | some bs => .bytes .stream bs rest
    | none => .ranOff (s.setPort rest).incomplete

/-- Put a table row's word where the next fetch finds it: a command at the head of the host's requests, a stream word at
the cursor with the request that reads it (log entries 3, 4 and 12). -/
def placeTableWord (s : State) (nbits w : Nat) : State :=
  match tableSource nbits w with
  | .command => s.setPort (.issue (tableBytes nbits w) :: s.port)
  | .stream =>
    let bs := tableBytes nbits w
    { s with stream := s.stream.place s.cur bs,
             port := (if bs.length ≤ 2 then .syncAtCursor else .headerAtCursor) :: s.port }

end Sys2Proof.Machine
end

