-- ==== Sys2Proof/Machine/Step.lean ====
section
/-! DEFINITION. One step: the host's next request is taken, decoded and run (00 R4, R6), a command, a word at the cursor or
an iteration of the loop with the other pairing (44 R124). With no request the block is idle
and nothing changes. -/

namespace Sys2Proof.Machine

/-- One step of the machine. -/
def step (s : State) : Host.Outcome State Fault Refusal :=
  match fetch s with
  | .idle => .next s
  | .ranOff t => .next t
  | .otherFrame rest => runOtherFrame (s.setPort rest)
  | .bytes src bs rest =>
    match decode src bs with
    | .instr i => exec i (s.setPort rest)
    | .rejected r => .refused (.undecodable r)

/-- `s` with a table row's word placed where the next step fetches. -/
def State.withFetchWord (s : State) (nbits w : Nat) : State := placeTableWord s nbits w

end Sys2Proof.Machine
end

