-- ==== Sys2Proof/Safety.lean ====
section
/-! DEFINITION. What counts as a safe state, in the terms claims use: the relations between registers that the spec states
of every reachable state, and where a header's bytes come from. -/

namespace Sys2Proof.Machine

/-- An index at which a sync stands (40 R69). -/
def SyncIndex (S : Stream) (i : Nat) : Prop :=
  S.byteAt i = some 0xFF#8 ∧ ∃ p, S.byteAt (i + 1) = some p ∧ topThreeSet p = true

/-- `i` is the least sync index at or after `c` (40 R69). -/
def LeastSyncFrom (S : Stream) (c i : Nat) : Prop :=
  c ≤ i ∧ SyncIndex S i ∧ ∀ j, c ≤ j → j < i → ¬ SyncIndex S j

/-- The relations that hold in every state a run reaches. -/
structure State.Inv (s : State) : Prop where
  /-- The stream is in canonical form (log entry 11). -/
  stream_wf : s.stream.wf = true
  /-- `CUR <= LEN` (10 R12). -/
  cur_le_len : s.cur ≤ s.stream.len
  /-- `LEN < 2^CURSOR_WIDTH`, launch premise L1 (70 R143). -/
  len_lt : s.stream.len < 2 ^ Config.cursorWidth
  /-- The tables have the properties P1 to P5, launch premise L4 (70 R143). -/
  tables_ok : s.tables.ok = true
  /-- `RV = 1` only while a header is held (10 R15, R17). -/
  rv_hdrv : s.rv = true → s.hdrv = true
  /-- `RV = 0` only with `REASON = 0` (10 R17). -/
  reason_clear : s.rv = false → s.reason = .noReason
  /-- With `RV = 1` the reason is that of the header in `H` (10 R17, 43 R105). -/
  reason_of_h : s.rv = true → s.reason = validate s.tables s.h
  /-- Each counted frame consumed at least four bytes (44 R118). -/
  count_le : 4 * s.vcount ≤ s.cur
  /-- `VCOUNT` does not overflow (44 R118). -/
  count_lt : s.vcount < 2 ^ Config.countWidth

/-- While `HDRV = 1`, `H` equals four bytes of the stream, or FF and three bytes of it (20 R41, 41 R76). -/
def State.HeaderFromStream (s : State) : Prop :=
  s.hdrv = true →
    ∃ k b0 b1 b2 b3, s.h = wordOfBytes b0 b1 b2 b3 ∧
      s.stream.byteAt k = some b1 ∧ s.stream.byteAt (k + 1) = some b2 ∧ s.stream.byteAt (k + 2) = some b3 ∧
      (b0 = 0xFF#8 ∨ (0 < k ∧ s.stream.byteAt (k - 1) = some b0))

end Sys2Proof.Machine
end

