-- ==== Sys2Proof/Certificates/Slice0/Obligations.lean ====
section
/-! DEFINITION. The statements for the provers. Each says in its docstring which part of spec/ it formalises, and where it
rests on a choice of the spec (a decision D<n>) or of the model (a log entry), which. -/

open Sys2Proof Sys2Proof.Machine

/-! ### Encodings -/

/-- Decode of encode is the instruction, for every well-formed instruction and every value of its operand (30 sections 1, 5
to 8; the byte containers are log entry 4, the order of the header rows log entry 2). -/
def Obligations.EncodeThenDecodeReturnsInstruction : Prop :=
  ∀ i : Instr, i.wf = true → decode i.source (encode i) = .instr i

/-- What the decoder answers is well-formed, stands where it was read, and encodes to the bytes read: each byte string has
at most one meaning in each place (log entries 2 and 4). -/
def Obligations.DecodedInstructionReencodesToItsBytes : Prop :=
  ∀ (src : Source) (bs : List Byte) (i : Instr),
    decode src bs = .instr i → i.wf = true ∧ i.source = src ∧ encode i = bs

/-- Words written out from the encodings of 30 section 6 and of 30 sections 1, 4 and 8 decode to the rows they stand for,
each header word fitting one row of the table only; the fourth bit of a command byte is no command (log entry 4). -/
def Obligations.SampleWordsDecode : Prop :=
  decode .command [0b00000000#8] = .instr .scanC ∧
  decode .command [0b00000001#8] = .instr .scanN ∧
  decode .command [0b00000010#8] = .instr .dec3 ∧
  decode .command [0b00000011#8] = .instr .dec4 ∧
  decode .command [0b00000100#8] = .instr .valid ∧
  decode .command [0b00000101#8] = .instr .brate ∧
  decode .command [0b00000110#8] = .instr .srate ∧
  decode .command [0b00000111#8] = .instr .reservedCmd7 ∧
  decode .command [0b00001000#8] = .rejected .commandBits ∧
  decode .command [0b00000000#8, 0b00010100#8] = .instr .frame ∧
  decode .stream [0b11111111#8, 0b11111011#8] = .instr (.sync2 0b11011#5) ∧
  decode .stream [0b11111111#8, 0b11011111#8] = .rejected .notSync ∧
  decode .stream [0xFF#8, 0xFB#8, 0x90#8, 0x64#8] = .instr (.hdr32 0xFFFB9064#32) ∧
  decode .stream [0x00#8, 0x0A#8, 0x10#8, 0x00#8] = .instr (.rsvdVer 0x000A1000#32) ∧
  decode .stream [0x00#8, 0x00#8, 0x10#8, 0x00#8] = .instr (.rsvdLay 0x00001000#32)

/-! ### The header word -/

/-- The shift and mask of each field on the header bytes, the slices of the word, and the worked example B1 = FB (30 R46). -/
def Obligations.HeaderFieldsAreShiftedAndMaskedBytes : Prop :=
  (∀ b0 b1 b2 b3 : Byte,
    let H : Word := b0 ++ b1 ++ b2 ++ b3
    ((syncBits H).toNat = (b0.toNat <<< 3) ||| (b1.toNat >>> 5) ∧
      (verBits H).toNat = (b1.toNat >>> 3) &&& 0b11 ∧
      (layBits H).toNat = (b1.toNat >>> 1) &&& 0b11 ∧
      (protBit H).toNat = b1.toNat &&& 0b1 ∧
      (briBits H).toNat = (b2.toNat >>> 4) &&& 0b1111 ∧
      (sriBits H).toNat = (b2.toNat >>> 2) &&& 0b11 ∧
      (padBit H).toNat = (b2.toNat >>> 1) &&& 0b1 ∧
      (privBit H).toNat = b2.toNat &&& 0b1 ∧
      (modeBits H).toNat = (b3.toNat >>> 6) &&& 0b11 ∧
      (mextBits H).toNat = (b3.toNat >>> 4) &&& 0b11 ∧
      (copyBit H).toNat = (b3.toNat >>> 3) &&& 0b1 ∧
      (origBit H).toNat = (b3.toNat >>> 2) &&& 0b1 ∧
      (emphBits H).toNat = b3.toNat &&& 0b11)) ∧
  (∀ H : Word,
    syncBits H = H.extractLsb 31 21 ∧ verBits H = H.extractLsb 20 19 ∧ layBits H = H.extractLsb 18 17 ∧
      protBit H = H.extractLsb 16 16 ∧ briBits H = H.extractLsb 15 12 ∧ sriBits H = H.extractLsb 11 10 ∧
      padBit H = H.extractLsb 9 9 ∧ privBit H = H.extractLsb 8 8 ∧ modeBits H = H.extractLsb 7 6 ∧
      mextBits H = H.extractLsb 5 4 ∧ copyBit H = H.extractLsb 3 3 ∧ origBit H = H.extractLsb 2 2 ∧
      emphBits H = H.extractLsb 1 0) ∧
  (∀ b0 b2 b3 : Byte,
    let H : Word := b0 ++ 0xFB#8 ++ b2 ++ b3
    verBits H = 0b11#2 ∧ layBits H = 0b01#2 ∧ protBit H = 1#1)

/-- The thirteen views cover the word without gap or overlap: joined in bit-stream order they are `H` (10 R14). -/
def Obligations.HeaderFieldsJoinToTheWord : Prop :=
  ∀ H : Word,
    syncBits H ++ verBits H ++ layBits H ++ protBit H ++ briBits H ++ sriBits H ++ padBit H ++ privBit H ++ modeBits H ++
      mextBits H ++ copyBit H ++ origBit H ++ emphBits H = H

/-- `Fields(H)`, all thirteen members: the raw fields, the typed value of each code point, and the booleans' polarity
(30 section 3, 41 section 5; decisions D10, D11, D24;
the spec marks all but `0b11` of VER, `0b01` of LAY and `0b10` of EMPH as general knowledge, log entry 14). -/
def Obligations.TypedFieldsFollowTheCodePoints : Prop :=
  (∀ H : Word, (fields H).sync = syncBits H ∧ (fields H).bri = briBits H ∧ (fields H).sri = sriBits H ∧
    (fields H).mext = mextBits H ∧ (fields H).version = versionOf (verBits H) ∧ (fields H).layer = layerOf (layBits H) ∧
    (fields H).mode = modeOf (modeBits H) ∧ (fields H).emphasis = emphasisOf (emphBits H) ∧
    ((fields H).protection = true ↔ protBit H = 1#1) ∧ ((fields H).padding = true ↔ padBit H = 1#1) ∧
    ((fields H).privateBit = true ↔ privBit H = 1#1) ∧ ((fields H).copyright = true ↔ copyBit H = 1#1) ∧
    ((fields H).original = true ↔ origBit H = 1#1)) ∧
  versionOf 0b00#2 = .mpeg25 ∧ versionOf 0b01#2 = .invalid ∧ versionOf 0b10#2 = .mpeg2 ∧ versionOf 0b11#2 = .mpeg1 ∧
  layerOf 0b00#2 = .invalid ∧ layerOf 0b01#2 = .layer3 ∧ layerOf 0b10#2 = .layer2 ∧ layerOf 0b11#2 = .layer1 ∧
  modeOf 0b00#2 = .stereo ∧ modeOf 0b01#2 = .joint ∧ modeOf 0b10#2 = .dual ∧ modeOf 0b11#2 = .single ∧
  emphasisOf 0b00#2 = .noEmphasis ∧ emphasisOf 0b01#2 = .ms5015 ∧ emphasisOf 0b10#2 = .invalid ∧
  emphasisOf 0b11#2 = .ccitJ17

/-- The sync pattern is two whole bytes: FF at `i` and a byte of at least E0, one of 32 values, at `i + 1`, whose low five
bits are VER, LAY and PROT of the header that starts at `i` (30 R61). -/
def Obligations.SyncPatternIsTwoWholeBytes : Prop :=
  (∀ (S : Stream) (i : Nat),
    SyncIndex S i ↔ S.byteAt i = some 0xFF#8 ∧ ∃ p, S.byteAt (i + 1) = some p ∧ p.extractLsb 7 5 = 0b111#3) ∧
  (∀ p : Byte, p.extractLsb 7 5 = 0b111#3 ↔ 0xE0 ≤ p.toNat) ∧
  ((List.range 256).filter fun n => topThreeSet (BitVec.ofNat 8 n)).length = 32 ∧
  (∀ p b2 b3 : Byte,
    let H : Word := 0xFF#8 ++ p ++ b2 ++ b3
    p.extractLsb 4 0 = verBits H ++ layBits H ++ protBit H)

/-! ### The step -/

/-- When the bytes of the next request decode to an instruction, the step is that instruction run on the state with the
request taken off the host's list (00 section 4; the host's list and the words at the cursor are log entries 1 and 3). -/
def Obligations.StepRunsTheDecodedInstruction : Prop :=
  ∀ (s : State) (rest : List Request) (i : Instr),
    (∀ bs, s.port = .issue bs :: rest → decode .command bs = .instr i → step s = exec i { s with port := rest }) ∧
    (∀ b0 b1, s.port = .syncAtCursor :: rest → s.stream.byteAt s.cur = some b0 →
      s.stream.byteAt (s.cur + 1) = some b1 → decode .stream [b0, b1] = .instr i →
      step s = exec i { s with port := rest }) ∧
    (∀ b0 b1 b2 b3, s.port = .headerAtCursor :: rest → s.stream.byteAt s.cur = some b0 →
      s.stream.byteAt (s.cur + 1) = some b1 → s.stream.byteAt (s.cur + 2) = some b2 →
      s.stream.byteAt (s.cur + 3) = some b3 → decode .stream [b0, b1, b2, b3] = .instr i →
      step s = exec i { s with port := rest })

/-- The other steps, all the model's choice: no request leaves the state as it is (log entry 3), bytes that are no row are
refused by name, presented by the host or standing at the cursor (log entries 17 and 19), and a word that runs off the end
of input ends as its operation does (20 section 4; log entry 19; that H keeps its bits is log entry 9). -/
def Obligations.StepWithoutAnInstruction : Prop :=
  ∀ (s : State) (rest : List Request),
    (s.port = [] → step s = .next s) ∧
    (∀ bs r, s.port = .issue bs :: rest → decode .command bs = .rejected r → step s = .refused (.undecodable r)) ∧
    (∀ b0 b1, s.port = .syncAtCursor :: rest → s.stream.byteAt s.cur = some b0 →
      s.stream.byteAt (s.cur + 1) = some b1 → ¬ (b0 = 0xFF#8 ∧ b1.extractLsb 7 5 = 0b111#3) →
      step s = .refused (.undecodable .notSync)) ∧
    (∀ b0 b1 b2 b3, s.port = .headerAtCursor :: rest → s.stream.byteAt s.cur = some b0 →
      s.stream.byteAt (s.cur + 1) = some b1 → s.stream.byteAt (s.cur + 2) = some b2 →
      s.stream.byteAt (s.cur + 3) = some b3 →
      let h : Word := b0 ++ b1 ++ b2 ++ b3
      syncBits h ≠ 0x7FF#11 → verBits h ≠ 0b01#2 → layBits h ≠ 0b00#2 → briBits h ≠ 0b1111#4 → briBits h ≠ 0b0000#4 →
      sriBits h ≠ 0b11#2 → emphBits h ≠ 0b10#2 →
      step s = .refused (.undecodable .noHeaderRow)) ∧
    (s.port = .syncAtCursor :: rest → s.stream.len < s.cur + 2 →
      step s = .next { s with port := rest, cur := s.stream.len, matched := false, res := .rNoMatch }) ∧
    (s.port = .headerAtCursor :: rest → s.stream.len < s.cur + 4 →
      step s = .next { s with port := rest, cur := s.stream.len, hdrv := false, rv := false, reason := .noReason,
                              res := .rIncomplete })

/-! ### The scan family -/

/-- SCAN.C in closed form: from `CUR <= LEN` it stops one past the fully-set byte of the least sync index at or after
`CUR`, or at `LEN` when there is none; nothing else changes (40 R67, R69; the cursor on no match is decision D6). -/
def Obligations.ScanCStopsAfterTheLeastSync : Prop :=
  ∀ s : State, s.cur ≤ s.stream.len →
    (∀ i, LeastSyncFrom s.stream s.cur i →
      exec .scanC s = .next { s with cur := i + 1, matched := true, res := .rMatch }) ∧
    ((∀ i, s.cur ≤ i → ¬ SyncIndex s.stream i) →
      exec .scanC s = .next { s with cur := s.stream.len, matched := false, res := .rNoMatch })

/-- SCAN.N in closed form: it stops on the fully-set byte (40 R68, R69; decision D6). -/
def Obligations.ScanNStopsOnTheLeastSync : Prop :=
  ∀ s : State, s.cur ≤ s.stream.len →
    (∀ i, LeastSyncFrom s.stream s.cur i →
      exec .scanN s = .next { s with cur := i, matched := true, res := .rMatch }) ∧
    ((∀ i, s.cur ≤ i → ¬ SyncIndex s.stream i) →
      exec .scanN s = .next { s with cur := s.stream.len, matched := false, res := .rNoMatch })

/-- Past `LEN`, where `MemRead` has no value and which is no launch state, both scans stop by name (20 section 1; rows U19
and U21 of file 93; log entry 15). -/
def Obligations.ScanPastTheEndStops : Prop :=
  ∀ s : State, s.stream.len < s.cur →
    exec .scanC s = .fault .readPastEnd ∧ exec .scanN s = .fault .readPastEnd

/-- The two variants compared: the same result, cursors one apart on a match, the same state on no match (40 R71). -/
def Obligations.ScanVariantsDifferByOneOnAMatch : Prop :=
  ∀ s : State, s.cur ≤ s.stream.len → ∃ t u,
    exec .scanC s = .next t ∧ exec .scanN s = .next u ∧ t.res = u.res ∧ t.matched = u.matched ∧
      ((t.res = .rMatch ∧ t.matched = true ∧ t.cur = u.cur + 1 ∧ { t with cur := u.cur } = u) ∨
        (t.res = .rNoMatch ∧ t.matched = false ∧ t.cur = s.stream.len ∧ t = u))

/-- A stream in which every FF is followed by a byte below E0 or by nothing yields no match (40 R72). -/
def Obligations.NoSyncByteYieldsNoMatch : Prop :=
  ∀ s : State, s.cur ≤ s.stream.len →
    (∀ i p, s.stream.byteAt i = some 0xFF#8 → s.stream.byteAt (i + 1) = some p → p.toNat < 0xE0) →
    exec .scanC s = .next { s with cur := s.stream.len, matched := false, res := .rNoMatch } ∧
      exec .scanN s = .next { s with cur := s.stream.len, matched := false, res := .rNoMatch }

/-- With exactly one sync index at or after the cursor, the first SCAN.C matches there and the second finds nothing
(40 R73). -/
def Obligations.SingleSyncIsFoundOnce : Prop :=
  ∀ (s : State) (i : Nat), s.cur ≤ s.stream.len → s.cur ≤ i → SyncIndex s.stream i →
    (∀ j, s.cur ≤ j → SyncIndex s.stream j → j = i) →
    ∃ t, exec .scanC s = .next t ∧ t.res = .rMatch ∧ t.cur = i + 1 ∧
      exec .scanC t = .next { t with cur := s.stream.len, matched := false, res := .rNoMatch }

/-- A SCAN.N that matched finds the same sync again and changes nothing; a SCAN.C that matched has advanced
(70 R149). -/
def Obligations.RepeatedScanNStandsStill : Prop :=
  ∀ s t : State,
    (exec .scanN s = .next t → t.res = .rMatch → exec .scanN t = .next t) ∧
    (exec .scanC s = .next t → t.res = .rMatch → s.cur < t.cur)

/-! ### The decode family -/

/-- DEC3 with three bytes left and with fewer (41 R76, R77; FF for B0 is decision D8, the state after R_INCOMPLETE
decision D7, H kept is log entry 9). -/
def Obligations.Dec3DecodesThreeBytesOrIsIncomplete : Prop :=
  ∀ s : State,
    (∀ b1 b2 b3, s.stream.byteAt s.cur = some b1 → s.stream.byteAt (s.cur + 1) = some b2 →
      s.stream.byteAt (s.cur + 2) = some b3 →
      exec .dec3 s = .next { s with cur := s.cur + 3, h := 0xFF#8 ++ b1 ++ b2 ++ b3, hdrv := true, rv := false,
                                    reason := .noReason, res := .rDecoded }) ∧
    (s.stream.len < s.cur + 3 →
      exec .dec3 s = .next { s with cur := s.stream.len, hdrv := false, rv := false, reason := .noReason,
                                    res := .rIncomplete })

/-- DEC4 with four bytes left, whatever they are, and with fewer (41 R76, R78, R79; decision D7, log entry 9). -/
def Obligations.Dec4DecodesFourBytesOrIsIncomplete : Prop :=
  ∀ s : State,
    (∀ b0 b1 b2 b3, s.stream.byteAt s.cur = some b0 → s.stream.byteAt (s.cur + 1) = some b1 →
      s.stream.byteAt (s.cur + 2) = some b2 → s.stream.byteAt (s.cur + 3) = some b3 →
      exec .dec4 s = .next { s with cur := s.cur + 4, h := b0 ++ b1 ++ b2 ++ b3, hdrv := true, rv := false,
                                    reason := .noReason, res := .rDecoded }) ∧
    (s.stream.len < s.cur + 4 →
      exec .dec4 s = .next { s with cur := s.stream.len, hdrv := false, rv := false, reason := .noReason,
                                    res := .rIncomplete })

/-- The two pairings agree: both scans run out in the same state, or DEC3 after SCAN.C and DEC4 after SCAN.N answer the
same state (41 R80; that no decode writes the bits of H when incomplete is log entry 9). -/
def Obligations.ScanAndDecodePairingsAgree : Prop :=
  ∀ s : State, s.cur ≤ s.stream.len → ∃ t u,
    exec .scanC s = .next t ∧ exec .scanN s = .next u ∧
      ((t.res = .rNoMatch ∧ t = u) ∨
        (t.res = .rMatch ∧ u.res = .rMatch ∧ ∃ v, exec .dec3 t = .next v ∧ exec .dec4 u = .next v ∧
          (v.res = .rDecoded ∨ v.res = .rIncomplete)))

/-- After a matching SCAN.C at sync index `i`, DEC3 is incomplete exactly when `LEN - i` is 2 or 3 (41 R81). -/
def Obligations.TruncatedHeaderAfterAMatch : Prop :=
  ∀ (s : State) (i : Nat), s.cur ≤ s.stream.len → LeastSyncFrom s.stream s.cur i →
    ∃ t u, exec .scanC s = .next t ∧ exec .dec3 t = .next u ∧ 2 ≤ s.stream.len - i ∧
      (u.res = .rIncomplete ↔ s.stream.len - i = 2 ∨ s.stream.len - i = 3)

/-- The mixed pairing SCAN.N ; DEC3 takes the fully-set byte for B1: `H = FF ++ FF ++ B1 ++ B2`, so BRI is at least 14, and
the cursor is left on the real B3 (70 R148). -/
def Obligations.MixedPairingShiftsTheHeader : Prop :=
  ∀ (s : State) (i : Nat) (b1 b2 : Byte), s.cur ≤ s.stream.len → LeastSyncFrom s.stream s.cur i →
    s.stream.byteAt (i + 1) = some b1 → s.stream.byteAt (i + 2) = some b2 →
    ∃ t u, exec .scanN s = .next t ∧ exec .dec3 t = .next u ∧ u.res = .rDecoded ∧
      u.h = 0xFF#8 ++ 0xFF#8 ++ b1 ++ b2 ∧ u.cur = i + 3 ∧ verBits u.h = 0b11#2 ∧ layBits u.h = 0b11#2 ∧
      protBit u.h = 1#1 ∧ 14 ≤ (briBits u.h).toNat

/-! ### The validate family -/

/-- VALID latches the verdict of the header in `H`, and is refused while none is held (43 R104; decision D9). -/
def Obligations.ValidLatchesTheVerdict : Prop :=
  ∀ s : State,
    (s.hdrv = true →
      exec .valid s = .next { s with reason := validate s.tables s.h, rv := true,
                                     res := if validate s.tables s.h = .noReason then .rValid else .rInvalid }) ∧
    (s.hdrv = false → exec .valid s = .next { s with res := .eNoHdr })

/-- The six steps of the validator in their order, for any tables: the first that matches is the reason, and none leaves
no reason; steps 3 and 4 always find a table entry; the codes of the reasons are 1 to 6 and 0 (43 R105). -/
def Obligations.ValidatorAppliesSixOrderedSteps : Prop :=
  (Reason.noReason.code = 0 ∧ Reason.invalidMpegVersion.code = 1 ∧ Reason.invalidLayer.code = 2 ∧
    Reason.invalidBitrateForVersion.code = 3 ∧ Reason.invalidSampleRateForVersion.code = 4 ∧
    Reason.invalidLayerIIBitrateAndMode.code = 5 ∧ Reason.invalidEmphasis.code = 6) ∧
  ∀ (T : Tables) (h : Word),
    let f := fields h
    let excluded (br : Bitrate) : Prop :=
      f.layer = .layer2 ∧ ∃ n, br = .bps n ∧
        ((f.mode = .single ∧ 224000 ≤ n.toNat) ∨
          (f.mode ≠ .single ∧ ((32000 ≤ n.toNat ∧ n.toNat ≤ 56000) ∨ n.toNat = 80000)))
    (f.version = .invalid → validate T h = .invalidMpegVersion) ∧
    (f.version ≠ .invalid → f.layer = .invalid → validate T h = .invalidLayer) ∧
    (f.version ≠ .invalid → f.layer ≠ .invalid →
      ∃ br sr, bitrateOf T h = some br ∧ sampleRateOf T h = some sr ∧
        (br = .invalid → validate T h = .invalidBitrateForVersion) ∧
        (br ≠ .invalid → sr = .reserved → validate T h = .invalidSampleRateForVersion) ∧
        (br ≠ .invalid → sr ≠ .reserved → excluded br → validate T h = .invalidLayerIIBitrateAndMode) ∧
        (br ≠ .invalid → sr ≠ .reserved → ¬ excluded br → f.emphasis = .invalid → validate T h = .invalidEmphasis) ∧
        (br ≠ .invalid → sr ≠ .reserved → ¬ excluded br → f.emphasis ≠ .invalid → validate T h = .noReason))

/-- The validator on raw bits, with the default tables, equals the rule chain for every word (43 R112; code points and table
values are log entries 13 and 14). -/
def Obligations.ValidatorOnRawBits : Prop :=
  ∀ h : Word, validate defaultTables h =
    let v := h.extractLsb 20 19
    let i := (h.extractLsb 15 12).toNat
    let single : Bool := h.extractLsb 7 6 = 0b11#2
    if v = 0b01#2 then .invalidMpegVersion
    else if h.extractLsb 18 17 = 0b00#2 then .invalidLayer
    else if i = 15 then .invalidBitrateForVersion
    else if h.extractLsb 11 10 = 0b11#2 then .invalidSampleRateForVersion
    else if h.extractLsb 18 17 = 0b10#2 ∧ v = 0b11#2 ∧ single = true ∧ i ∈ [11, 12, 13, 14] then
      .invalidLayerIIBitrateAndMode
    else if h.extractLsb 18 17 = 0b10#2 ∧ v = 0b11#2 ∧ single = false ∧ i ∈ [1, 2, 3, 5] then
      .invalidLayerIIBitrateAndMode
    else if h.extractLsb 18 17 = 0b10#2 ∧ v ≠ 0b11#2 ∧ single = false ∧ i ∈ [4, 5, 6, 7, 9] then
      .invalidLayerIIBitrateAndMode
    else if h.extractLsb 1 0 = 0b10#2 then .invalidEmphasis
    else .noReason

/-- The verdict depends on fourteen bits of `H` only, for any tables (43 R109). -/
def Obligations.VerdictReadsFourteenBits : Prop :=
  ∀ (T : Tables) (h g : Word), h &&& 0x001EFCC3#32 = g &&& 0x001EFCC3#32 → validate T h = validate T g

/-- Every verdict follows from the properties P1 to P5 of the tables: any tables with them give the verdicts of the default
tables, for every word (42 R96). -/
def Obligations.VerdictsRestOnTableProperties : Prop :=
  ∀ T : Tables, T.P1 → T.P2 → T.P3 → T.P4 → T.P5 → ∀ h : Word, validate T h = validate defaultTables h

/-- A word with a reserved code point gets the reason of the first in the validator's order, and without one only step 5 can
object, for any tables with the properties P1 to P4 (30 R54, 42 R96; code points are log entry 14). -/
def Obligations.ReservedCodePointsGiveReasons : Prop :=
  ∀ (T : Tables) (h : Word), T.P1 → T.P2 → T.P3 → T.P4 →
    (hasReservedVersion h = true → validate T h = .invalidMpegVersion) ∧
    (hasReservedVersion h = false → hasReservedLayer h = true → validate T h = .invalidLayer) ∧
    (hasReservedVersion h = false → hasReservedLayer h = false →
      (hasInvalidBitrate h = true → validate T h = .invalidBitrateForVersion) ∧
      (hasInvalidBitrate h = false → hasReservedSampleRate h = true →
        validate T h = .invalidSampleRateForVersion) ∧
      (hasInvalidBitrate h = false → hasReservedSampleRate h = false → hasReservedEmphasis h = true →
        validate T h = .invalidEmphasis ∨ validate T h = .invalidLayerIIBitrateAndMode) ∧
      (hasInvalidBitrate h = false → hasReservedSampleRate h = false → hasReservedEmphasis h = false →
        validate T h = .noReason ∨ validate T h = .invalidLayerIIBitrateAndMode))

/-- Free format is accepted in every layer and mode, for any tables with the properties P2 and P4: index 0 resolves to FREE
and gives no reason of its own (42 R89, R96, 43 R107, R108; decision D12, log entry 14). -/
def Obligations.FreeFormatIsAccepted : Prop :=
  ∀ (T : Tables) (h : Word), T.P2 → T.P4 → hasFreeBitrate h = true → hasReservedVersion h = false →
    hasReservedLayer h = false → hasReservedSampleRate h = false → hasReservedEmphasis h = false →
    bitrateOf T h = some .free ∧ validate T h = .noReason

/-! ### The table family -/

/-- BRATE, with the machine's tables: the refusals in their order, and the resolved bitrate or sentinel into `DOUT`; nothing
else changes (42 R94;
decisions D9, D12, D16). -/
def Obligations.BrateLooksUpTheBitrate : Prop :=
  ∀ s : State,
    (s.hdrv = false → exec .brate s = .next { s with res := .eNoHdr }) ∧
    (s.hdrv = true → (fields s.h).version = .invalid ∨ (fields s.h).layer = .invalid →
      exec .brate s = .next { s with res := .eBadKey }) ∧
    (s.hdrv = true → (fields s.h).version ≠ .invalid → (fields s.h).layer ≠ .invalid →
      ∃ r, bitrateOf s.tables s.h = some r ∧
        (∀ n, r = .bps n → exec .brate s = .next { s with dout := ⟨.value, n⟩, res := .rLookup }) ∧
        (r = .free → exec .brate s = .next { s with dout := ⟨.free, 0⟩, res := .rLookup }) ∧
        (r = .invalid → exec .brate s = .next { s with dout := ⟨.invalid, 0⟩, res := .rLookup }))

/-- SRATE, with the machine's tables: the refusals in their order, and the resolved sample rate or sentinel into `DOUT`; the
layer plays no part
(42 R95; decisions D9, D16). -/
def Obligations.SrateLooksUpTheSampleRate : Prop :=
  ∀ s : State,
    (s.hdrv = false → exec .srate s = .next { s with res := .eNoHdr }) ∧
    (s.hdrv = true → (fields s.h).version = .invalid → exec .srate s = .next { s with res := .eBadKey }) ∧
    (s.hdrv = true → (fields s.h).version ≠ .invalid →
      ∃ r, sampleRateOf s.tables s.h = some r ∧
        (∀ n, r = .hz n → exec .srate s = .next { s with dout := ⟨.value, n⟩, res := .rLookup }) ∧
        (r = .reserved → exec .srate s = .next { s with dout := ⟨.reserved, 0⟩, res := .rLookup }))

/-- The properties P1 to P5 are a decidable test of the tables, which the default ones pass; and in any tables with P1 to P4
an index resolves to a sentinel exactly where they say, on the header's own bits (42 R93, R96; log entry 14). -/
def Obligations.SentinelsStandAtTheirIndices : Prop :=
  (∀ T : Tables, T.ok = true ↔ T.P1 ∧ T.P2 ∧ T.P3 ∧ T.P4 ∧ T.P5) ∧ defaultTables.ok = true ∧
  ∀ (T : Tables) (h : Word), T.P1 → T.P2 → T.P3 → T.P4 → (fields h).version ≠ .invalid →
    (sampleRateOf T h = some .reserved ↔ sriBits h = 0b11#2) ∧
    ((fields h).layer ≠ .invalid →
      (bitrateOf T h = some .invalid ↔ briBits h = 0b1111#4) ∧
      (bitrateOf T h = some .free ↔ briBits h = 0b0000#4))

/-- Facts of the default tables: rows strictly increasing, between 8000 and 448000, and each MPEG_2 sample rate half the
MPEG_1 one and each MPEG_2_5 one half the MPEG_2 one (42 R97; log entry 13). -/
def Obligations.DefaultTableFacts : Prop :=
  let T := defaultTables
  (∀ c l (i j : BitVec 4) m n, T.bitrate c l i = .bps m → T.bitrate c l j = .bps n → i < j → m < n) ∧
  (∀ c l i n, T.bitrate c l i = .bps n → 8000 ≤ n.toNat ∧ n.toNat ≤ 448000) ∧
  T.bitrate .v1 .l1 14#4 = .bps 448000#32 ∧ T.bitrate .v2 .l2 1#4 = .bps 8000#32 ∧
  (∀ i, T.bitrate .v2 .l2 i = T.bitrate .v2 .l3 i) ∧
  (∀ i n, T.sampleRate .mpeg1 i = .hz n →
    ∃ m k, T.sampleRate .mpeg2 i = .hz m ∧ T.sampleRate .mpeg25 i = .hz k ∧ n.toNat = 2 * m.toNat ∧
      m.toNat = 2 * k.toNat)

/-! ### Results, refusals, status -/

/-- The reserved command code writes `E_BADCMD` and changes nothing else (30 R58, 60 R131; decision D3). -/
def Obligations.ReservedCommandWritesOnlyTheResult : Prop :=
  ∀ s : State, exec .reservedCmd7 s = .next { s with res := .eBadCmd }

/-- A refusal writes `RES` alone, whichever instruction gives it (60 section 2; decisions D3, D9, D16). -/
def Obligations.RefusalsWriteOnlyTheResult : Prop :=
  ∀ (i : Instr) (s t : State), exec i s = .next t →
    (t.res = .eNoHdr ∨ t.res = .eBadKey ∨ t.res = .eBadCmd) → t = { s with res := t.res }

/-- Nothing traps: from `CUR <= LEN` every instruction completes, with the cursor still in `0..LEN` and a result code that
is not `R_NONE` (60 R125, R132; 10 R12). -/
def Obligations.EveryInstructionCompletes : Prop :=
  ∀ (i : Instr) (s : State), s.cur ≤ s.stream.len →
    ∃ t, exec i s = .next t ∧ t.cur ≤ t.stream.len ∧ t.res ≠ .rNone

/-- The status word's layout and its hard-wired zeros (10 R19; decision D18), the eleven result codes (10 R18) and the four
tags of `DOUT` (10 R20). -/
def Obligations.StatusWordLayout : Prop :=
  (∀ s : State,
    s.status.extractLsb 3 0 = s.res.code ∧ s.status.getLsbD 4 = s.matched ∧ s.status.getLsbD 5 = s.hdrv ∧
      s.status.getLsbD 6 = s.rv ∧ s.status.extractLsb 9 7 = s.reason.code ∧ s.status.extractLsb 15 10 = 0#6) ∧
  Result.rNone.code = 0#4 ∧ Result.rMatch.code = 1#4 ∧ Result.rNoMatch.code = 2#4 ∧ Result.rDecoded.code = 3#4 ∧
  Result.rIncomplete.code = 4#4 ∧ Result.rValid.code = 5#4 ∧ Result.rInvalid.code = 6#4 ∧ Result.rLookup.code = 7#4 ∧
  Result.eNoHdr.code = 8#4 ∧ Result.eBadKey.code = 9#4 ∧ Result.eBadCmd.code = 10#4 ∧
  DoutTag.value.code = 0#2 ∧ DoutTag.free.code = 1#2 ∧ DoutTag.invalid.code = 2#2 ∧ DoutTag.reserved.code = 3#2

/-! ### Frames and whole-machine rules -/

/-- What each command leaves unchanged when it gives a next state, register by register, with every byte of the stream and
the tables (10 R23; that an incomplete decode keeps H is log entry 9). -/
def Obligations.CommandsTouchOnlyTheirRegisters : Prop :=
  ∀ (i : Instr) (s t : State), exec i s = .next t →
    (i = .scanC ∨ i = .scanN → t.h = s.h ∧ t.hdrv = s.hdrv ∧ t.rv = s.rv ∧ t.reason = s.reason ∧ t.dout = s.dout) ∧
    (i = .dec3 ∨ i = .dec4 → t.matched = s.matched ∧ t.dout = s.dout ∧ t.rv = false ∧ t.reason = .noReason ∧
      (t.res = .rIncomplete → t.h = s.h)) ∧
    (i = .valid → t.cur = s.cur ∧ t.h = s.h ∧ t.hdrv = s.hdrv ∧ t.matched = s.matched ∧ t.dout = s.dout) ∧
    (i = .brate ∨ i = .srate → t.cur = s.cur ∧ t.h = s.h ∧ t.hdrv = s.hdrv ∧ t.matched = s.matched ∧ t.rv = s.rv ∧
      t.reason = s.reason ∧ (t.res ≠ .rLookup → t.dout = s.dout)) ∧
    (i ≠ .frame → t.vcount = s.vcount ∧ t.offset = s.offset ∧ t.reports = s.reports ∧ t.runEnd = s.runEnd) ∧
    t.port = s.port ∧ t.tables = s.tables ∧ t.stream.len = s.stream.len ∧ (∀ a, t.stream.byteAt a = s.stream.byteAt a)

/-- No step changes the stream or the tables, from any state (20 R30, R38; decision D4; log entry 20). -/
def Obligations.StreamNeverChanges : Prop :=
  ∀ s t : State, step s = .next t →
    t.stream = s.stream ∧ t.tables = s.tables ∧ ∀ a, t.stream.byteAt a = s.stream.byteAt a

/-- No step moves the cursor back (10 R12). -/
def Obligations.CursorNeverMovesBack : Prop :=
  ∀ s t : State, s.cur ≤ s.stream.len → step s = .next t → s.cur ≤ t.cur ∧ t.cur ≤ t.stream.len

/-- `DOUT` is written by BRATE and SRATE alone, and only with the result `R_LOOKUP` (10 R20). -/
def Obligations.OnlyLookupsWriteDout : Prop :=
  ∀ (i : Instr) (s t : State), exec i s = .next t → t.dout ≠ s.dout → (i = .brate ∨ i = .srate) ∧ t.res = .rLookup

/-! ### Reset and invariants -/

/-- Reset, and the reset of a running machine, leave the values the spec gives and keep the stream and the tables; a launch
with `CUR0 > LEN`, with `LEN >= 2^64` or with tables that lack one of P1 to P5 is no launch (10 section 8, 70 sections 1, 2;
decision D20; the stream's canonical form and the empty stream of `State.reset` are log entry 11). The values of H, DOUT and
OFFSET are not stated. -/
def Obligations.ResetLeavesTheSpecifiedValues : Prop :=
  (∀ (S : Stream) (T : Tables) (c : Nat) (s : State), State.launch S T c = some s →
    s.stream = S ∧ s.tables = T ∧ s.cur = c ∧ s.hdrv = false ∧ s.readH = none ∧ s.matched = false ∧ s.rv = false ∧
      s.reason = .noReason ∧ s.res = .rNone ∧ s.status = 0#16 ∧ s.vcount = 0) ∧
  (∀ (S : Stream) (T : Tables) (c : Nat),
    State.launch S T c = none ↔
      ¬ (S.wf = true ∧ (T.P1 ∧ T.P2 ∧ T.P3 ∧ T.P4 ∧ T.P5) ∧ c ≤ S.len ∧ S.len < 2 ^ 64)) ∧
  (∀ (s t : State) (c : Nat), s.restart c = some t →
    t.stream = s.stream ∧ t.tables = s.tables ∧ State.launch s.stream s.tables c = some t) ∧
  State.launch ⟨[], 0⟩ defaultTables 0 = some State.reset

/-- The invariants at reset: the launch on the empty stream (log entry 11) with the default tables. No clause is about DOUT,
or about H while none is held. -/
def Obligations.InvariantHoldsAtReset : Prop := State.reset.Inv ∧ State.reset.HeaderFromStream

/-- The invariants at every launch (70 R143; the stream's canonical form is log entry 11). No clause is about DOUT, or about
H while none is held. -/
def Obligations.InvariantHoldsAtEveryLaunch : Prop :=
  ∀ (S : Stream) (T : Tables) (c : Nat) (s : State), State.launch S T c = some s → s.Inv ∧ s.HeaderFromStream

/-- Every step keeps the invariant, from every state that has it: the cursor within the stream, the tables' properties, the
flags' relations, the reason that of the header in `H`, and at most one counted frame per four bytes, so that the count does
not overflow (10 R12, R15, R17; 44 R118; 70 R143). -/
def Obligations.StepKeepsTheInvariant : Prop :=
  ∀ s t : State, s.Inv → step s = .next t → t.Inv

/-- Every step keeps `H` equal to bytes of the stream (20 R41). -/
def Obligations.StepKeepsTheHeaderFromTheStream : Prop :=
  ∀ s t : State, s.HeaderFromStream → step s = .next t → t.HeaderFromStream

/-! ### The driver -/

/-- FRAME, one iteration: no sync, a truncated header, or a header decoded, validated, reported at `i + 4` and counted when
spec-valid (44 R116, R117, R118; one step and the kept first end are log entry 5, that H is kept on truncation is log entry 9). -/
def Obligations.FrameRunsOneDriverIteration : Prop :=
  ∀ s : State, s.cur ≤ s.stream.len →
    ((∀ i, s.cur ≤ i → ¬ SyncIndex s.stream i) →
      exec .frame s = .next { s with cur := s.stream.len, matched := false, res := .rNoMatch,
                                     runEnd := s.runEnd.or (some .endOfInput) }) ∧
    (∀ i, LeastSyncFrom s.stream s.cur i →
      (s.stream.len < i + 4 →
        exec .frame s = .next { s with cur := s.stream.len, matched := true, hdrv := false, rv := false,
                                       reason := .noReason, res := .rIncomplete,
                                       runEnd := s.runEnd.or (some .truncated) }) ∧
      (∀ b1 b2 b3, s.stream.byteAt (i + 1) = some b1 → s.stream.byteAt (i + 2) = some b2 →
        s.stream.byteAt (i + 3) = some b3 →
        let H : Word := 0xFF#8 ++ b1 ++ b2 ++ b3
        let r := validate s.tables H
        exec .frame s = .next { s with cur := i + 4, h := H, matched := true, hdrv := true, rv := true, reason := r,
                                       res := if r = .noReason then .rValid else .rInvalid, offset := i + 4,
                                       reports := s.reports ++ [⟨i + 4, H, r⟩],
                                       vcount := if r = .noReason then s.vcount + 1 else s.vcount }))

/-- An iteration that reports raises the cursor by at least four and reports the cursor it leaves; one that does not leaves
the count and ends at `LEN` (44 R117, R119, R120). -/
def Obligations.FrameReportsAdvanceByFour : Prop :=
  ∀ s t : State, s.cur ≤ s.stream.len → exec .frame s = .next t →
    (∃ h r, t.reports = s.reports ++ [⟨t.cur, h, r⟩] ∧ s.cur + 4 ≤ t.cur ∧ t.offset = t.cur ∧
      t.vcount = s.vcount + (if r = .noReason then 1 else 0)) ∨
    (t.reports = s.reports ∧ t.vcount = s.vcount ∧ t.cur = s.stream.len ∧ t.runEnd ≠ none)

/-- The end is absorbing: at `CUR = LEN` every scan finds nothing, every decode is incomplete, and FRAME changes only `RES`
and `MATCH` once the run has ended (70 R153; that an incomplete decode keeps H is log entry 9). -/
def Obligations.EndOfInputIsAbsorbing : Prop :=
  ∀ s : State, s.cur = s.stream.len →
    exec .scanC s = .next { s with matched := false, res := .rNoMatch } ∧
    exec .scanN s = .next { s with matched := false, res := .rNoMatch } ∧
    exec .dec3 s = .next { s with hdrv := false, rv := false, reason := .noReason, res := .rIncomplete } ∧
    exec .dec4 s = .next { s with hdrv := false, rv := false, reason := .noReason, res := .rIncomplete } ∧
    (s.runEnd ≠ none → exec .frame s = .next { s with matched := false, res := .rNoMatch })

/-! ### The rows of stream words -/

/-- A header row with four bytes left decodes its word and latches the verdict; with fewer it is incomplete (30 R54; the rows
as pseudo-operations are the model's choice, log entry 1; that H is kept when incomplete is log entry 9). -/
def Obligations.HeaderRowsDecodeAndValidate : Prop :=
  ∀ (h : Word) (s : State) (i : Instr),
    (i = .hdr32 h ∨ i = .rsvdVer h ∨ i = .rsvdLay h ∨ i = .rsvdBri h ∨ i = .rsvdSri h ∨ i = .rsvdEmph h ∨
      i = .freeBri h) →
    (s.cur + 4 ≤ s.stream.len →
      exec i s = .next { s with cur := s.cur + 4, h := h, hdrv := true, rv := true, reason := validate s.tables h,
                                res := if validate s.tables h = .noReason then .rValid else .rInvalid }) ∧
    (s.stream.len < s.cur + 4 →
      exec i s = .next { s with cur := s.stream.len, hdrv := false, rv := false, reason := .noReason,
                                res := .rIncomplete })

/-- A header row whose word stands at the cursor is DEC4 followed by VALID (30 R54, R55, 41 R78; log entry 1). -/
def Obligations.HeaderRowIsDec4ThenValid : Prop :=
  ∀ (s : State) (b0 b1 b2 b3 : Byte) (i : Instr), s.stream.byteAt s.cur = some b0 →
    s.stream.byteAt (s.cur + 1) = some b1 → s.stream.byteAt (s.cur + 2) = some b2 →
    s.stream.byteAt (s.cur + 3) = some b3 → decode .stream [b0, b1, b2, b3] = .instr i →
    ∃ t, exec .dec4 s = .next t ∧ t.res = .rDecoded ∧ exec i s = exec .valid t

/-- The sync row at the cursor is SCAN.C, which matches there (30 R61, 40 R67; log entry 1). -/
def Obligations.SyncRowIsScanCAtTheCursor : Prop :=
  (∀ (low : BitVec 5) (s : State),
    (s.cur + 2 ≤ s.stream.len →
      exec (.sync2 low) s = .next { s with cur := s.cur + 1, matched := true, res := .rMatch }) ∧
    (s.stream.len < s.cur + 2 →
      exec (.sync2 low) s = .next { s with cur := s.stream.len, matched := false, res := .rNoMatch })) ∧
  (∀ (s : State) (b0 b1 : Byte) (i : Instr), s.stream.byteAt s.cur = some b0 →
    s.stream.byteAt (s.cur + 1) = some b1 → decode .stream [b0, b1] = .instr i → exec i s = exec .scanC s)

/-! ### Reading H, sentinels, the other pairing -/

/-- The readable view of `H`, in every state: the header while one is held, and no value otherwise (10 R15). -/
def Obligations.HeaderIsReadableWhileHeld : Prop :=
  ∀ s : State, (s.hdrv = true → s.readH = some s.h) ∧ (s.hdrv = false → s.readH = none)

/-- A sentinel in `DOUT` comes with value 0 (10 R20): after every lookup, and kept by every step from a state where it holds.
Nothing is said of DOUT before the first lookup (10 R24, log entry 8). -/
def Obligations.SentinelsComeWithValueZero : Prop :=
  (∀ (i : Instr) (s t : State), exec i s = .next t → t.res = .rLookup → i = .brate ∨ i = .srate →
    t.dout.tag ≠ .value → t.dout.val = 0#32) ∧
  (∀ s t : State, (s.dout.tag ≠ .value → s.dout.val = 0#32) → step s = .next t →
    t.dout.tag ≠ .value → t.dout.val = 0#32)

/-- The loop with the other pairing, SCAN.N, DEC4, VALID (44 R124): one iteration answers what FRAME answers, and any number
of them from any state with `CUR <= LEN` leave the state that as many FRAMEs leave, the same reports, count and end
included (as a request of the host it is log entry 5). -/
def Obligations.OtherPairingRunsTheSameLoop : Prop :=
  (∀ (s : State) (rest : List Request), s.port = .otherFrame :: rest →
    step s = exec .frame { s with port := rest }) ∧
  ∀ (n : Nat) (s : State), s.cur ≤ s.stream.len → ∃ t,
    Sys2Proof.core.run n { s with port := List.replicate n .otherFrame } = .next t ∧
    Sys2Proof.core.run n { s with port := List.replicate n (.issue (encode .frame)) } = .next t
end

