-- ==== Sys2Proof/Laws/Decode.lean ====
section
/-! SUPPORT. The small lemmas of the decoder: bytes and words, and the masks against the fields. -/

namespace Sys2Proof

@[simp] theorem wordOfBytes_bytes_of_word (h : Word) :
    wordOfBytes (h.extractLsb' 24 8) (h.extractLsb' 16 8) (h.extractLsb' 8 8) (h.extractLsb' 0 8) = h := by
  unfold wordOfBytes
  ext i hi
  simp only [BitVec.getElem_append, BitVec.getElem_extractLsb']
  split_ifs <;> simp [← BitVec.getLsbD_eq_getElem] <;> congr 1 <;> omega

@[simp] theorem bytesOfWord_word_of_bytes (b0 b1 b2 b3 : Byte) :
    bytesOfWord (wordOfBytes b0 b1 b2 b3) = [b0, b1, b2, b3] := by
  unfold bytesOfWord wordOfBytes
  simp only [List.cons.injEq, and_true]
  refine ⟨?_, ?_, ?_, ?_⟩ <;> ext i hi <;>
    simp only [BitVec.getElem_extractLsb', BitVec.getLsbD_append] <;>
    simp only [← BitVec.getLsbD_eq_getElem] <;> split_ifs <;> first | omega | (congr 1; omega)

theorem decodeStream_bytesOfWord (h : Word) : decode .stream (bytesOfWord h) = decodeHeaderWord h := by
  simp [decode, decodeStream, bytesOfWord]

/-- A mask that covers bits `k` to `k + w - 1` compares that field with the value's. -/
theorem fits_eq_field (k w : Nat) (mask value h : Word) (v : BitVec w)
    (hm : ∀ i, i < 32 → mask.getLsbD i = decide (k ≤ i ∧ i < k + w))
    (hv : ∀ i, i < 32 → value.getLsbD i = (decide (k ≤ i) && v.getLsbD (i - k))) (hk : k + w ≤ 32) :
    fits mask value h = (h.extractLsb' k w == v) := by
  rw [Bool.eq_iff_iff]
  simp only [fits, beq_iff_eq]
  constructor
  · intro he
    ext i hi
    have := congrArg (fun x => x.getLsbD (k + i)) he
    simp only [BitVec.getLsbD_and, hm (k + i) (by omega), hv (k + i) (by omega)] at this
    simpa [hi, ← BitVec.getLsbD_eq_getElem] using this
  · rintro rfl
    apply BitVec.eq_of_getLsbD_eq
    intro i hi
    rw [BitVec.getLsbD_and, hm i hi, hv i hi, BitVec.getLsbD_extractLsb']
    by_cases h1 : k ≤ i
    · by_cases h2 : i < k + w
      · simp [h1, h2, show i - k < w by omega, show k + (i - k) = i by omega]
      · simp [h1, h2, show ¬ i - k < w by omega]
    · simp [h1]

theorem fits_sync (h : Word) : fits 0xFFE00000#32 0xFFE00000#32 h = carriesSync h :=
  fits_eq_field 21 11 _ _ h _ (by decide) (by decide) (by decide)

theorem fits_reservedVersion (h : Word) : fits 0x00180000#32 0x00080000#32 h = hasReservedVersion h :=
  fits_eq_field 19 2 _ _ h _ (by decide) (by decide) (by decide)

theorem fits_reservedLayer (h : Word) : fits 0x00060000#32 0x00000000#32 h = hasReservedLayer h :=
  fits_eq_field 17 2 _ _ h _ (by decide) (by decide) (by decide)

theorem fits_invalidBitrate (h : Word) : fits 0x0000F000#32 0x0000F000#32 h = hasInvalidBitrate h :=
  fits_eq_field 12 4 _ _ h _ (by decide) (by decide) (by decide)

theorem fits_reservedSampleRate (h : Word) : fits 0x00000C00#32 0x00000C00#32 h = hasReservedSampleRate h :=
  fits_eq_field 10 2 _ _ h _ (by decide) (by decide) (by decide)

theorem fits_reservedEmphasis (h : Word) : fits 0x00000003#32 0x00000002#32 h = hasReservedEmphasis h :=
  fits_eq_field 0 2 _ _ h _ (by decide) (by decide) (by decide)

theorem fits_freeBitrate (h : Word) : fits 0x0000F000#32 0x00000000#32 h = hasFreeBitrate h :=
  fits_eq_field 12 4 _ _ h _ (by decide) (by decide) (by decide)

/-- The header rows by their fields: everything the word decoder can answer. -/
theorem decodeHeaderWord_eq (h : Word) :
    decodeHeaderWord h =
      if carriesSync h then .instr (.hdr32 h)
      else if hasReservedVersion h then .instr (.rsvdVer h)
      else if hasInvalidBitrate h then .instr (.rsvdBri h)
      else if hasReservedSampleRate h then .instr (.rsvdSri h)
      else if hasReservedEmphasis h then .instr (.rsvdEmph h)
      else if hasReservedLayer h then .instr (.rsvdLay h)
      else if hasFreeBitrate h then .instr (.freeBri h)
      else .rejected .noHeaderRow := by
  simp only [decodeHeaderWord, fits_sync, fits_reservedVersion, fits_reservedLayer, fits_invalidBitrate,
    fits_reservedSampleRate, fits_reservedEmphasis, fits_freeBitrate]

end Sys2Proof
end

