-- ==== Sys2Proof/Laws/Memory.lean ====
section
/-! SUPPORT. The laws of the stream's cells: reading after writing, and that every operation keeps the canonical form. -/

namespace Sys2Proof.Machine

theorem Memory.wf_cons (x : Nat) (v : Byte) (rest : List Host.Cell) :
    Memory.wf ((x, v) :: rest) = true ↔ v ≠ 0 ∧ (∀ c ∈ rest, x < c.1) ∧ Memory.wf rest = true := by
  simp [Memory.wf, and_assoc]

theorem Memory.mem_write (m : List Host.Cell) (a : Nat) (b : Byte) (c : Host.Cell) (hc : c ∈ Memory.write m a b) :
    c ∈ m ∨ c = (a, b) := by
  induction m with
  | nil => unfold Memory.write at hc; split at hc <;> simp_all
  | cons head rest ih =>
    obtain ⟨x, v⟩ := head
    unfold Memory.write at hc
    split_ifs at hc <;> simp only [List.mem_cons] at hc ⊢ <;> tauto

theorem Memory.write_wf (m : List Host.Cell) (a : Nat) (b : Byte) (hm : Memory.wf m = true) :
    Memory.wf (Memory.write m a b) = true := by
  induction m with
  | nil => unfold Memory.write; split <;> simp_all [Memory.wf]
  | cons head rest ih =>
    obtain ⟨x, v⟩ := head
    obtain ⟨hv, hlt, hrest⟩ := (Memory.wf_cons x v rest).mp hm
    unfold Memory.write
    split_ifs with h1 h2 h3 h4
    · exact hm
    · refine (Memory.wf_cons _ _ _).mpr ⟨h2, ?_, hm⟩
      intro c hc
      rcases List.mem_cons.mp hc with rfl | hc
      · exact h1
      · exact lt_trans h1 (hlt c hc)
    · exact hrest
    · subst h3; exact (Memory.wf_cons _ _ _).mpr ⟨h4, hlt, hrest⟩
    · refine (Memory.wf_cons _ _ _).mpr ⟨hv, ?_, ih hrest⟩
      intro c hc
      rcases Memory.mem_write rest a b c hc with hc | rfl
      · exact hlt c hc
      · simp only; omega

theorem Memory.read_eq_zero_of_lt (m : List Host.Cell) (a : Nat) (h : ∀ c ∈ m, a < c.1) : Memory.read m a = 0 := by
  induction m with
  | nil => rfl
  | cons head rest ih =>
    obtain ⟨x, v⟩ := head
    have hx : a < x := h (x, v) (by simp)
    rw [Memory.read, if_neg (by omega)]
    exact ih fun c hc => h c (by simp [hc])

/-- Read after write, at the written address and at every other one. -/
theorem Memory.read_write (m : List Host.Cell) (a : Nat) (b : Byte) (x : Nat) (hm : Memory.wf m = true) :
    Memory.read (Memory.write m a b) x = if x = a then b else Memory.read m x := by
  induction m with
  | nil => unfold Memory.write; split_ifs <;> simp_all [Memory.read]
  | cons head rest ih =>
    obtain ⟨y, v⟩ := head
    obtain ⟨-, hlt, hrest⟩ := (Memory.wf_cons y v rest).mp hm
    unfold Memory.write
    split_ifs with h1 h2 h3 h4 h5 h6 h7 h8 h9
    · subst h2 h3
      rw [Memory.read, if_neg (by omega)]
      exact Memory.read_eq_zero_of_lt rest x fun c hc => lt_trans h1 (hlt c hc)
    · rfl
    · simp [Memory.read, h4]
    · simp [Memory.read, h4]
    · subst h5 h6 h7; exact Memory.read_eq_zero_of_lt rest _ hlt
    · subst h5; simp [Memory.read, h7]
    · simp [Memory.read, h8]
    · subst h5; simp [Memory.read, h8]
    · subst h9; simp [Memory.read, h5, ih hrest]
    · simp only [Memory.read, ih hrest, h9, if_false]

theorem Stream.byteAt_eq_some_of_lt (S : Stream) (a : Nat) (h : a < S.len) : ∃ b, S.byteAt a = some b :=
  ⟨Memory.read S.cells a, by simp [Stream.byteAt, h]⟩

theorem Stream.lt_of_byteAt (S : Stream) (a : Nat) (b : Byte) (h : S.byteAt a = some b) : a < S.len := by
  unfold Stream.byteAt at h; split at h <;> simp_all

theorem Stream.byteAt_eq_none_iff (S : Stream) (a : Nat) : S.byteAt a = none ↔ S.len ≤ a := by
  simp [Stream.byteAt]

theorem Stream.wf_iff (S : Stream) :
    S.wf = true ↔ Memory.wf S.cells = true ∧ ∀ c ∈ S.cells, c.1 < S.len := by
  simp [Stream.wf]

theorem Stream.put_wf (S : Stream) (a : Nat) (b : Byte) (h : S.wf = true) : (S.put a b).wf = true := by
  rw [Stream.wf_iff] at h ⊢
  refine ⟨Memory.write_wf _ _ _ h.1, fun c hc => ?_⟩
  simp only [Stream.put] at hc ⊢
  rcases Memory.mem_write _ _ _ c hc with hc | rfl
  · exact lt_of_lt_of_le (h.2 c hc) (le_max_left _ _)
  · exact lt_of_lt_of_le (Nat.lt_succ_self _) (le_max_right _ _)

theorem Stream.place_wf (bs : List Byte) (S : Stream) (a : Nat) (h : S.wf = true) : (S.place a bs).wf = true := by
  induction bs generalizing S a with
  | nil => exact h
  | cons b rest ih => exact ih _ _ (Stream.put_wf S a b h)

theorem Stream.ofBytes_wf (bs : List Byte) : (Stream.ofBytes bs).wf = true := Stream.place_wf bs _ _ rfl

theorem Stream.place_len (bs : List Byte) (S : Stream) (a : Nat) (h : a ≤ S.len) :
    (S.place a bs).len = max S.len (a + bs.length) := by
  induction bs generalizing S a with
  | nil => simp [Stream.place]; omega
  | cons b rest ih => rw [Stream.place, ih _ _ (by simp [Stream.put])]; simp [Stream.put]; omega

/-- What placing bytes leaves at every index. -/
theorem Stream.read_place (bs : List Byte) (S : Stream) (a x : Nat) (h : S.wf = true) :
    Memory.read (S.place a bs).cells x =
      if a ≤ x ∧ x < a + bs.length then bs.getD (x - a) 0 else Memory.read S.cells x := by
  induction bs generalizing S a with
  | nil => rw [if_neg (by simp)]; rfl
  | cons b rest ih =>
    rw [Stream.place, ih _ _ (Stream.put_wf S a b h)]
    have hw : Memory.wf S.cells = true := ((Stream.wf_iff S).mp h).1
    by_cases hx : x = a
    · subst hx
      rw [if_neg (by omega), if_pos (by simp)]
      simp [Stream.put, Memory.read_write _ _ _ _ hw]
    · by_cases hlo : a + 1 ≤ x ∧ x < a + 1 + rest.length
      · rw [if_pos hlo, if_pos (by simp; omega)]
        obtain ⟨k, rfl⟩ : ∃ k, x = a + 1 + k := ⟨x - (a + 1), by omega⟩
        rw [show a + 1 + k - (a + 1) = k by omega, show a + 1 + k - a = k + 1 by omega]
        simp
      · rw [if_neg hlo, if_neg (by simp; omega)]
        simp [Stream.put, Memory.read_write _ _ _ _ hw, hx]

theorem Stream.ofBytes_len (bs : List Byte) : (Stream.ofBytes bs).len = bs.length := by
  simp [Stream.ofBytes, Stream.place_len]

/-- A stream made of bytes holds exactly them. -/
theorem Stream.ofBytes_byteAt (bs : List Byte) (i : Nat) : (Stream.ofBytes bs).byteAt i = bs[i]? := by
  unfold Stream.byteAt
  rw [Stream.ofBytes_len, Stream.ofBytes, Stream.read_place _ _ _ _ rfl]
  by_cases h : i < bs.length
  · simp [h]
  · simp [h]

theorem Stream.bytesAt_four (S : Stream) (a : Nat) (h : a + 4 ≤ S.len) :
    ∃ b0 b1 b2 b3, S.bytesAt a 4 = some [b0, b1, b2, b3] ∧ S.byteAt a = some b0 ∧ S.byteAt (a + 1) = some b1 ∧
      S.byteAt (a + 2) = some b2 ∧ S.byteAt (a + 3) = some b3 := by
  refine ⟨Memory.read S.cells a, Memory.read S.cells (a + 1), Memory.read S.cells (a + 2), Memory.read S.cells (a + 3),
    ?_, ?_, ?_, ?_, ?_⟩
  · simp [Stream.bytesAt, h, List.range_succ]
  all_goals (rw [Stream.byteAt, if_pos (by omega)])

theorem Stream.bytesAt_two (S : Stream) (a : Nat) (h : a + 2 ≤ S.len) :
    ∃ b0 b1, S.bytesAt a 2 = some [b0, b1] ∧ S.byteAt a = some b0 ∧ S.byteAt (a + 1) = some b1 := by
  refine ⟨Memory.read S.cells a, Memory.read S.cells (a + 1), ?_, ?_, ?_⟩
  · simp [Stream.bytesAt, h, List.range_succ]
  all_goals (rw [Stream.byteAt, if_pos (by omega)])

theorem Stream.bytesAt_none_iff (S : Stream) (a n : Nat) : S.bytesAt a n = none ↔ S.len < a + n := by
  simp [Stream.bytesAt]

/-- What a launch answers. -/
theorem State.launch_eq_some (S : Stream) (T : Tables) (c : Nat) (s : State) (h : State.launch S T c = some s) :
    S.wf = true ∧ T.ok = true ∧ c ≤ S.len ∧ S.len < 2 ^ Config.cursorWidth ∧ s = State.launchState S T c := by
  unfold State.launch at h
  split at h
  · next hp => exact ⟨hp.1, hp.2.1, hp.2.2.1, hp.2.2.2, by simpa using h.symm⟩
  · cases h

end Sys2Proof.Machine
end

