-- ==== Sys2Proof/Laws/State.lean ====
section
/-! SUPPORT. The small lemmas of State: one per field per named update, each true by unfolding, so that no later proof
unfolds a record update. -/

namespace Sys2Proof.Machine

variable (s : State)

/-! ### refuse -/

@[simp] theorem State.refuse_stream (c : Result) : (s.refuse c).stream = s.stream := rfl
@[simp] theorem State.refuse_tables (c : Result) : (s.refuse c).tables = s.tables := rfl
@[simp] theorem State.refuse_cur (c : Result) : (s.refuse c).cur = s.cur := rfl
@[simp] theorem State.refuse_h (c : Result) : (s.refuse c).h = s.h := rfl
@[simp] theorem State.refuse_res (c : Result) : (s.refuse c).res = c := rfl
@[simp] theorem State.refuse_matched (c : Result) : (s.refuse c).matched = s.matched := rfl
@[simp] theorem State.refuse_hdrv (c : Result) : (s.refuse c).hdrv = s.hdrv := rfl
@[simp] theorem State.refuse_rv (c : Result) : (s.refuse c).rv = s.rv := rfl
@[simp] theorem State.refuse_reason (c : Result) : (s.refuse c).reason = s.reason := rfl
@[simp] theorem State.refuse_dout (c : Result) : (s.refuse c).dout = s.dout := rfl
@[simp] theorem State.refuse_port (c : Result) : (s.refuse c).port = s.port := rfl
@[simp] theorem State.refuse_vcount (c : Result) : (s.refuse c).vcount = s.vcount := rfl
@[simp] theorem State.refuse_offset (c : Result) : (s.refuse c).offset = s.offset := rfl
@[simp] theorem State.refuse_reports (c : Result) : (s.refuse c).reports = s.reports := rfl
@[simp] theorem State.refuse_runEnd (c : Result) : (s.refuse c).runEnd = s.runEnd := rfl

/-! ### scanHit -/

@[simp] theorem State.scanHit_stream (n : Nat) : (s.scanHit n).stream = s.stream := rfl
@[simp] theorem State.scanHit_tables (n : Nat) : (s.scanHit n).tables = s.tables := rfl
@[simp] theorem State.scanHit_cur (n : Nat) : (s.scanHit n).cur = n := rfl
@[simp] theorem State.scanHit_h (n : Nat) : (s.scanHit n).h = s.h := rfl
@[simp] theorem State.scanHit_res (n : Nat) : (s.scanHit n).res = .rMatch := rfl
@[simp] theorem State.scanHit_matched (n : Nat) : (s.scanHit n).matched = true := rfl
@[simp] theorem State.scanHit_hdrv (n : Nat) : (s.scanHit n).hdrv = s.hdrv := rfl
@[simp] theorem State.scanHit_rv (n : Nat) : (s.scanHit n).rv = s.rv := rfl
@[simp] theorem State.scanHit_reason (n : Nat) : (s.scanHit n).reason = s.reason := rfl
@[simp] theorem State.scanHit_dout (n : Nat) : (s.scanHit n).dout = s.dout := rfl
@[simp] theorem State.scanHit_port (n : Nat) : (s.scanHit n).port = s.port := rfl
@[simp] theorem State.scanHit_vcount (n : Nat) : (s.scanHit n).vcount = s.vcount := rfl
@[simp] theorem State.scanHit_offset (n : Nat) : (s.scanHit n).offset = s.offset := rfl
@[simp] theorem State.scanHit_reports (n : Nat) : (s.scanHit n).reports = s.reports := rfl
@[simp] theorem State.scanHit_runEnd (n : Nat) : (s.scanHit n).runEnd = s.runEnd := rfl

/-! ### scanMiss -/

@[simp] theorem State.scanMiss_stream : (s.scanMiss).stream = s.stream := rfl
@[simp] theorem State.scanMiss_tables : (s.scanMiss).tables = s.tables := rfl
@[simp] theorem State.scanMiss_cur : (s.scanMiss).cur = s.stream.len := rfl
@[simp] theorem State.scanMiss_h : (s.scanMiss).h = s.h := rfl
@[simp] theorem State.scanMiss_res : (s.scanMiss).res = .rNoMatch := rfl
@[simp] theorem State.scanMiss_matched : (s.scanMiss).matched = false := rfl
@[simp] theorem State.scanMiss_hdrv : (s.scanMiss).hdrv = s.hdrv := rfl
@[simp] theorem State.scanMiss_rv : (s.scanMiss).rv = s.rv := rfl
@[simp] theorem State.scanMiss_reason : (s.scanMiss).reason = s.reason := rfl
@[simp] theorem State.scanMiss_dout : (s.scanMiss).dout = s.dout := rfl
@[simp] theorem State.scanMiss_port : (s.scanMiss).port = s.port := rfl
@[simp] theorem State.scanMiss_vcount : (s.scanMiss).vcount = s.vcount := rfl
@[simp] theorem State.scanMiss_offset : (s.scanMiss).offset = s.offset := rfl
@[simp] theorem State.scanMiss_reports : (s.scanMiss).reports = s.reports := rfl
@[simp] theorem State.scanMiss_runEnd : (s.scanMiss).runEnd = s.runEnd := rfl

/-! ### incomplete -/

@[simp] theorem State.incomplete_stream : (s.incomplete).stream = s.stream := rfl
@[simp] theorem State.incomplete_tables : (s.incomplete).tables = s.tables := rfl
@[simp] theorem State.incomplete_cur : (s.incomplete).cur = s.stream.len := rfl
@[simp] theorem State.incomplete_h : (s.incomplete).h = s.h := rfl
@[simp] theorem State.incomplete_res : (s.incomplete).res = .rIncomplete := rfl
@[simp] theorem State.incomplete_matched : (s.incomplete).matched = s.matched := rfl
@[simp] theorem State.incomplete_hdrv : (s.incomplete).hdrv = false := rfl
@[simp] theorem State.incomplete_rv : (s.incomplete).rv = false := rfl
@[simp] theorem State.incomplete_reason : (s.incomplete).reason = .noReason := rfl
@[simp] theorem State.incomplete_dout : (s.incomplete).dout = s.dout := rfl
@[simp] theorem State.incomplete_port : (s.incomplete).port = s.port := rfl
@[simp] theorem State.incomplete_vcount : (s.incomplete).vcount = s.vcount := rfl
@[simp] theorem State.incomplete_offset : (s.incomplete).offset = s.offset := rfl
@[simp] theorem State.incomplete_reports : (s.incomplete).reports = s.reports := rfl
@[simp] theorem State.incomplete_runEnd : (s.incomplete).runEnd = s.runEnd := rfl

/-! ### loadHeader -/

@[simp] theorem State.loadHeader_stream (n : Nat) (w : Word) : (s.loadHeader n w).stream = s.stream := rfl
@[simp] theorem State.loadHeader_tables (n : Nat) (w : Word) : (s.loadHeader n w).tables = s.tables := rfl
@[simp] theorem State.loadHeader_cur (n : Nat) (w : Word) : (s.loadHeader n w).cur = s.cur + n := rfl
@[simp] theorem State.loadHeader_h (n : Nat) (w : Word) : (s.loadHeader n w).h = w := rfl
@[simp] theorem State.loadHeader_res (n : Nat) (w : Word) : (s.loadHeader n w).res = .rDecoded := rfl
@[simp] theorem State.loadHeader_matched (n : Nat) (w : Word) : (s.loadHeader n w).matched = s.matched := rfl
@[simp] theorem State.loadHeader_hdrv (n : Nat) (w : Word) : (s.loadHeader n w).hdrv = true := rfl
@[simp] theorem State.loadHeader_rv (n : Nat) (w : Word) : (s.loadHeader n w).rv = false := rfl
@[simp] theorem State.loadHeader_reason (n : Nat) (w : Word) : (s.loadHeader n w).reason = .noReason := rfl
@[simp] theorem State.loadHeader_dout (n : Nat) (w : Word) : (s.loadHeader n w).dout = s.dout := rfl
@[simp] theorem State.loadHeader_port (n : Nat) (w : Word) : (s.loadHeader n w).port = s.port := rfl
@[simp] theorem State.loadHeader_vcount (n : Nat) (w : Word) : (s.loadHeader n w).vcount = s.vcount := rfl
@[simp] theorem State.loadHeader_offset (n : Nat) (w : Word) : (s.loadHeader n w).offset = s.offset := rfl
@[simp] theorem State.loadHeader_reports (n : Nat) (w : Word) : (s.loadHeader n w).reports = s.reports := rfl
@[simp] theorem State.loadHeader_runEnd (n : Nat) (w : Word) : (s.loadHeader n w).runEnd = s.runEnd := rfl

/-! ### setVerdict -/

@[simp] theorem State.setVerdict_stream (r : Reason) : (s.setVerdict r).stream = s.stream := rfl
@[simp] theorem State.setVerdict_tables (r : Reason) : (s.setVerdict r).tables = s.tables := rfl
@[simp] theorem State.setVerdict_cur (r : Reason) : (s.setVerdict r).cur = s.cur := rfl
@[simp] theorem State.setVerdict_h (r : Reason) : (s.setVerdict r).h = s.h := rfl
@[simp] theorem State.setVerdict_res (r : Reason) : (s.setVerdict r).res = resultOfReason r := rfl
@[simp] theorem State.setVerdict_matched (r : Reason) : (s.setVerdict r).matched = s.matched := rfl
@[simp] theorem State.setVerdict_hdrv (r : Reason) : (s.setVerdict r).hdrv = s.hdrv := rfl
@[simp] theorem State.setVerdict_rv (r : Reason) : (s.setVerdict r).rv = true := rfl
@[simp] theorem State.setVerdict_reason (r : Reason) : (s.setVerdict r).reason = r := rfl
@[simp] theorem State.setVerdict_dout (r : Reason) : (s.setVerdict r).dout = s.dout := rfl
@[simp] theorem State.setVerdict_port (r : Reason) : (s.setVerdict r).port = s.port := rfl
@[simp] theorem State.setVerdict_vcount (r : Reason) : (s.setVerdict r).vcount = s.vcount := rfl
@[simp] theorem State.setVerdict_offset (r : Reason) : (s.setVerdict r).offset = s.offset := rfl
@[simp] theorem State.setVerdict_reports (r : Reason) : (s.setVerdict r).reports = s.reports := rfl
@[simp] theorem State.setVerdict_runEnd (r : Reason) : (s.setVerdict r).runEnd = s.runEnd := rfl

/-! ### setDout -/

@[simp] theorem State.setDout_stream (d : Dout) : (s.setDout d).stream = s.stream := rfl
@[simp] theorem State.setDout_tables (d : Dout) : (s.setDout d).tables = s.tables := rfl
@[simp] theorem State.setDout_cur (d : Dout) : (s.setDout d).cur = s.cur := rfl
@[simp] theorem State.setDout_h (d : Dout) : (s.setDout d).h = s.h := rfl
@[simp] theorem State.setDout_res (d : Dout) : (s.setDout d).res = .rLookup := rfl
@[simp] theorem State.setDout_matched (d : Dout) : (s.setDout d).matched = s.matched := rfl
@[simp] theorem State.setDout_hdrv (d : Dout) : (s.setDout d).hdrv = s.hdrv := rfl
@[simp] theorem State.setDout_rv (d : Dout) : (s.setDout d).rv = s.rv := rfl
@[simp] theorem State.setDout_reason (d : Dout) : (s.setDout d).reason = s.reason := rfl
@[simp] theorem State.setDout_dout (d : Dout) : (s.setDout d).dout = d := rfl
@[simp] theorem State.setDout_port (d : Dout) : (s.setDout d).port = s.port := rfl
@[simp] theorem State.setDout_vcount (d : Dout) : (s.setDout d).vcount = s.vcount := rfl
@[simp] theorem State.setDout_offset (d : Dout) : (s.setDout d).offset = s.offset := rfl
@[simp] theorem State.setDout_reports (d : Dout) : (s.setDout d).reports = s.reports := rfl
@[simp] theorem State.setDout_runEnd (d : Dout) : (s.setDout d).runEnd = s.runEnd := rfl

/-! ### setPort -/

@[simp] theorem State.setPort_stream (rest : List Request) : (s.setPort rest).stream = s.stream := rfl
@[simp] theorem State.setPort_tables (rest : List Request) : (s.setPort rest).tables = s.tables := rfl
@[simp] theorem State.setPort_cur (rest : List Request) : (s.setPort rest).cur = s.cur := rfl
@[simp] theorem State.setPort_h (rest : List Request) : (s.setPort rest).h = s.h := rfl
@[simp] theorem State.setPort_res (rest : List Request) : (s.setPort rest).res = s.res := rfl
@[simp] theorem State.setPort_matched (rest : List Request) : (s.setPort rest).matched = s.matched := rfl
@[simp] theorem State.setPort_hdrv (rest : List Request) : (s.setPort rest).hdrv = s.hdrv := rfl
@[simp] theorem State.setPort_rv (rest : List Request) : (s.setPort rest).rv = s.rv := rfl
@[simp] theorem State.setPort_reason (rest : List Request) : (s.setPort rest).reason = s.reason := rfl
@[simp] theorem State.setPort_dout (rest : List Request) : (s.setPort rest).dout = s.dout := rfl
@[simp] theorem State.setPort_port (rest : List Request) : (s.setPort rest).port = rest := rfl
@[simp] theorem State.setPort_vcount (rest : List Request) : (s.setPort rest).vcount = s.vcount := rfl
@[simp] theorem State.setPort_offset (rest : List Request) : (s.setPort rest).offset = s.offset := rfl
@[simp] theorem State.setPort_reports (rest : List Request) : (s.setPort rest).reports = s.reports := rfl
@[simp] theorem State.setPort_runEnd (rest : List Request) : (s.setPort rest).runEnd = s.runEnd := rfl

/-! ### takeOffset -/

@[simp] theorem State.takeOffset_stream : (s.takeOffset).stream = s.stream := rfl
@[simp] theorem State.takeOffset_tables : (s.takeOffset).tables = s.tables := rfl
@[simp] theorem State.takeOffset_cur : (s.takeOffset).cur = s.cur := rfl
@[simp] theorem State.takeOffset_h : (s.takeOffset).h = s.h := rfl
@[simp] theorem State.takeOffset_res : (s.takeOffset).res = s.res := rfl
@[simp] theorem State.takeOffset_matched : (s.takeOffset).matched = s.matched := rfl
@[simp] theorem State.takeOffset_hdrv : (s.takeOffset).hdrv = s.hdrv := rfl
@[simp] theorem State.takeOffset_rv : (s.takeOffset).rv = s.rv := rfl
@[simp] theorem State.takeOffset_reason : (s.takeOffset).reason = s.reason := rfl
@[simp] theorem State.takeOffset_dout : (s.takeOffset).dout = s.dout := rfl
@[simp] theorem State.takeOffset_port : (s.takeOffset).port = s.port := rfl
@[simp] theorem State.takeOffset_vcount : (s.takeOffset).vcount = s.vcount := rfl
@[simp] theorem State.takeOffset_offset : (s.takeOffset).offset = s.cur := rfl
@[simp] theorem State.takeOffset_reports : (s.takeOffset).reports = s.reports := rfl
@[simp] theorem State.takeOffset_runEnd : (s.takeOffset).runEnd = s.runEnd := rfl

/-! ### makeReport -/

@[simp] theorem State.makeReport_stream : (s.makeReport).stream = s.stream := rfl
@[simp] theorem State.makeReport_tables : (s.makeReport).tables = s.tables := rfl
@[simp] theorem State.makeReport_cur : (s.makeReport).cur = s.cur := rfl
@[simp] theorem State.makeReport_h : (s.makeReport).h = s.h := rfl
@[simp] theorem State.makeReport_res : (s.makeReport).res = s.res := rfl
@[simp] theorem State.makeReport_matched : (s.makeReport).matched = s.matched := rfl
@[simp] theorem State.makeReport_hdrv : (s.makeReport).hdrv = s.hdrv := rfl
@[simp] theorem State.makeReport_rv : (s.makeReport).rv = s.rv := rfl
@[simp] theorem State.makeReport_reason : (s.makeReport).reason = s.reason := rfl
@[simp] theorem State.makeReport_dout : (s.makeReport).dout = s.dout := rfl
@[simp] theorem State.makeReport_port : (s.makeReport).port = s.port := rfl
@[simp] theorem State.makeReport_vcount : (s.makeReport).vcount = if s.res = .rValid then s.vcount + 1 else s.vcount := rfl
@[simp] theorem State.makeReport_offset : (s.makeReport).offset = s.offset := rfl
@[simp] theorem State.makeReport_reports : (s.makeReport).reports = s.reports ++ [⟨s.offset, s.h, s.reason⟩] := rfl
@[simp] theorem State.makeReport_runEnd : (s.makeReport).runEnd = s.runEnd := rfl

/-! ### stopRun -/

@[simp] theorem State.stopRun_stream (e : RunEnd) : (s.stopRun e).stream = s.stream := rfl
@[simp] theorem State.stopRun_tables (e : RunEnd) : (s.stopRun e).tables = s.tables := rfl
@[simp] theorem State.stopRun_cur (e : RunEnd) : (s.stopRun e).cur = s.cur := rfl
@[simp] theorem State.stopRun_h (e : RunEnd) : (s.stopRun e).h = s.h := rfl
@[simp] theorem State.stopRun_res (e : RunEnd) : (s.stopRun e).res = s.res := rfl
@[simp] theorem State.stopRun_matched (e : RunEnd) : (s.stopRun e).matched = s.matched := rfl
@[simp] theorem State.stopRun_hdrv (e : RunEnd) : (s.stopRun e).hdrv = s.hdrv := rfl
@[simp] theorem State.stopRun_rv (e : RunEnd) : (s.stopRun e).rv = s.rv := rfl
@[simp] theorem State.stopRun_reason (e : RunEnd) : (s.stopRun e).reason = s.reason := rfl
@[simp] theorem State.stopRun_dout (e : RunEnd) : (s.stopRun e).dout = s.dout := rfl
@[simp] theorem State.stopRun_port (e : RunEnd) : (s.stopRun e).port = s.port := rfl
@[simp] theorem State.stopRun_vcount (e : RunEnd) : (s.stopRun e).vcount = s.vcount := rfl
@[simp] theorem State.stopRun_offset (e : RunEnd) : (s.stopRun e).offset = s.offset := rfl
@[simp] theorem State.stopRun_reports (e : RunEnd) : (s.stopRun e).reports = s.reports := rfl
@[simp] theorem State.stopRun_runEnd (e : RunEnd) : (s.stopRun e).runEnd = match s.runEnd with
      | some e' => some e'
      | none => some e := rfl

/-! ### the launch state -/

@[simp] theorem State.launchState_stream (S : Stream) (T : Tables) (c : Nat) :
    (State.launchState S T c).stream = S := rfl
@[simp] theorem State.launchState_tables (S : Stream) (T : Tables) (c : Nat) :
    (State.launchState S T c).tables = T := rfl
@[simp] theorem State.launchState_cur (S : Stream) (T : Tables) (c : Nat) :
    (State.launchState S T c).cur = c := rfl
@[simp] theorem State.launchState_h (S : Stream) (T : Tables) (c : Nat) :
    (State.launchState S T c).h = 0 := rfl
@[simp] theorem State.launchState_res (S : Stream) (T : Tables) (c : Nat) :
    (State.launchState S T c).res = .rNone := rfl
@[simp] theorem State.launchState_matched (S : Stream) (T : Tables) (c : Nat) :
    (State.launchState S T c).matched = false := rfl
@[simp] theorem State.launchState_hdrv (S : Stream) (T : Tables) (c : Nat) :
    (State.launchState S T c).hdrv = false := rfl
@[simp] theorem State.launchState_rv (S : Stream) (T : Tables) (c : Nat) :
    (State.launchState S T c).rv = false := rfl
@[simp] theorem State.launchState_reason (S : Stream) (T : Tables) (c : Nat) :
    (State.launchState S T c).reason = .noReason := rfl
@[simp] theorem State.launchState_dout (S : Stream) (T : Tables) (c : Nat) :
    (State.launchState S T c).dout = ⟨.value, 0⟩ := rfl
@[simp] theorem State.launchState_port (S : Stream) (T : Tables) (c : Nat) :
    (State.launchState S T c).port = [] := rfl
@[simp] theorem State.launchState_vcount (S : Stream) (T : Tables) (c : Nat) :
    (State.launchState S T c).vcount = 0 := rfl
@[simp] theorem State.launchState_offset (S : Stream) (T : Tables) (c : Nat) :
    (State.launchState S T c).offset = 0 := rfl
@[simp] theorem State.launchState_reports (S : Stream) (T : Tables) (c : Nat) :
    (State.launchState S T c).reports = [] := rfl
@[simp] theorem State.launchState_runEnd (S : Stream) (T : Tables) (c : Nat) :
    (State.launchState S T c).runEnd = none := rfl

end Sys2Proof.Machine
end

