-- ==== Sys2Proof/Laws/Ops.lean ====
section
/-! SUPPORT. What each shared operation can do, once each; the proofs about instructions cite these and do not unfold the
operations. -/

namespace Sys2Proof.Machine

@[simp] theorem andThen_next (s : State) (f : State → Out) : andThen (.next s) f = f s := rfl
@[simp] theorem andThen_fault (r : Fault) (f : State → Out) : andThen (.fault r) f = .fault r := rfl
@[simp] theorem andThen_refused (r : Refusal) (f : State → Out) : andThen (.refused r) f = .refused r := rfl

theorem resultOfReason_eq_rValid_iff (r : Reason) : resultOfReason r = .rValid ↔ r = .noReason := by
  unfold resultOfReason; split <;> simp_all

/-! ### The scan loop -/

theorem not_syncIndex_of_byte (S : Stream) (i : Nat) (b : Byte) (hb : S.byteAt i = some b) (h : b ≠ 0xFF#8) :
    ¬ SyncIndex S i := by
  rintro ⟨h1, -⟩; simp_all

theorem not_syncIndex_of_next (S : Stream) (i : Nat) (p : Byte) (hp : S.byteAt (i + 1) = some p)
    (h : topThreeSet p = false) : ¬ SyncIndex S i := by
  rintro ⟨-, q, hq, ht⟩; simp_all

theorem not_syncIndex_last (S : Stream) (i : Nat) (h : S.len ≤ i + 1) : ¬ SyncIndex S i := by
  rintro ⟨-, q, hq, -⟩
  have := Stream.lt_of_byteAt S _ _ hq
  omega

/-- A byte that fails the top-three-bits test is not FF, so the two-byte skip loses no sync (40 R66, R69). -/
theorem ne_ff_of_not_topThreeSet (p : Byte) (h : topThreeSet p = false) : p ≠ 0xFF#8 := by
  rintro rfl; exact absurd h (by decide)

/-- Everything the scan loop can answer from `c <= LEN` with enough fuel: the least sync index, or that there is none. -/
theorem scanFrom_spec (S : Stream) (fuel c : Nat) (hc : c ≤ S.len) (hf : S.len - c < fuel) :
    (∃ i, scanFrom S fuel c = .found i ∧ LeastSyncFrom S c i) ∨
      (scanFrom S fuel c = .exhausted ∧ ∀ i, c ≤ i → ¬ SyncIndex S i) := by
  induction fuel using Nat.strong_induction_on generalizing c with
  | _ fuel ih =>
    cases fuel with
    | zero => omega
    | succ f =>
      rw [scanFrom]
      by_cases he : c = S.len
      · right
        rw [if_pos he]
        exact ⟨rfl, fun i hi => not_syncIndex_last S i (by omega)⟩
      · rw [if_neg he]
        obtain ⟨b, hb⟩ := Stream.byteAt_eq_some_of_lt S c (by omega)
        simp only [hb]
        by_cases hbf : b = 0xFF#8
        · rw [if_neg (by simpa using hbf)]
          by_cases hl : c + 1 = S.len
          · right
            rw [if_pos hl]
            exact ⟨rfl, fun i hi => not_syncIndex_last S i (by omega)⟩
          · rw [if_neg hl]
            obtain ⟨p, hp⟩ := Stream.byteAt_eq_some_of_lt S (c + 1) (by omega)
            simp only [hp]
            by_cases ht : topThreeSet p = true
            · left
              rw [if_pos ht]
              exact ⟨c, rfl, le_refl c, ⟨by rw [hb, hbf], p, hp, ht⟩, fun j h1 h2 => by omega⟩
            · have ht' : topThreeSet p = false := by simpa using ht
              rw [if_neg ht]
              have h0 : ¬ SyncIndex S c := not_syncIndex_of_next S c p hp ht'
              have h1 : ¬ SyncIndex S (c + 1) :=
                not_syncIndex_of_byte S (c + 1) p hp (ne_ff_of_not_topThreeSet p ht')
              rcases ih f (by omega) (c + 2) (by omega) (by omega) with ⟨i, hi, hle, hs, hmin⟩ | ⟨hi, hno⟩
              · left
                refine ⟨i, hi, by omega, hs, fun j h3 h4 => ?_⟩
                rcases (by omega : j = c ∨ j = c + 1 ∨ c + 2 ≤ j) with rfl | rfl | h5
                · exact h0
                · exact h1
                · exact hmin j h5 h4
              · right
                refine ⟨hi, fun j h3 => ?_⟩
                rcases (by omega : j = c ∨ j = c + 1 ∨ c + 2 ≤ j) with rfl | rfl | h5
                · exact h0
                · exact h1
                · exact hno j h5
        · rw [if_pos (by simpa using hbf)]
          have h0 : ¬ SyncIndex S c := not_syncIndex_of_byte S c b hb hbf
          rcases ih f (by omega) (c + 1) (by omega) (by omega) with ⟨i, hi, hle, hs, hmin⟩ | ⟨hi, hno⟩
          · left
            refine ⟨i, hi, by omega, hs, fun j h3 h4 => ?_⟩
            rcases (by omega : j = c ∨ c + 1 ≤ j) with rfl | h5
            · exact h0
            · exact hmin j h5 h4
          · right
            refine ⟨hi, fun j h3 => ?_⟩
            rcases (by omega : j = c ∨ c + 1 ≤ j) with rfl | h5
            · exact h0
            · exact hno j h5

theorem LeastSyncFrom.unique {S : Stream} {c i j : Nat} (hi : LeastSyncFrom S c i) (hj : LeastSyncFrom S c j) : i = j := by
  rcases Nat.lt_trichotomy i j with h | h | h
  · exact absurd hi.2.1 (hj.2.2 i hi.1 h)
  · exact h
  · exact absurd hj.2.1 (hi.2.2 j hj.1 h)

theorem LeastSyncFrom.lt_len {S : Stream} {c i : Nat} (h : LeastSyncFrom S c i) : i + 1 < S.len := by
  obtain ⟨-, ⟨-, p, hp, -⟩, -⟩ := h
  exact Stream.lt_of_byteAt S _ _ hp

/-- Everything a scan operation can answer from `CUR <= LEN` (40 R69). -/
theorem scan_cases (k : Nat) (s : State) (h : s.cur ≤ s.stream.len) :
    (∃ i, LeastSyncFrom s.stream s.cur i ∧ scan k s = .next (s.scanHit (i + k))) ∨
      ((∀ i, s.cur ≤ i → ¬ SyncIndex s.stream i) ∧ scan k s = .next s.scanMiss) := by
  rcases scanFrom_spec s.stream (s.stream.len - s.cur + 1) s.cur h (by omega) with ⟨i, hi, hl⟩ | ⟨hi, hno⟩
  · exact .inl ⟨i, hl, by simp [scan, hi]⟩
  · exact .inr ⟨hno, by simp [scan, hi]⟩

theorem scan_of_least (k : Nat) (s : State) (h : s.cur ≤ s.stream.len) (i : Nat) (hi : LeastSyncFrom s.stream s.cur i) :
    scan k s = .next (s.scanHit (i + k)) := by
  rcases scan_cases k s h with ⟨j, hj, he⟩ | ⟨hno, -⟩
  · rw [he, hi.unique hj]
  · exact absurd hi.2.1 (hno i hi.1)

theorem scan_of_none (k : Nat) (s : State) (h : s.cur ≤ s.stream.len) (hno : ∀ i, s.cur ≤ i → ¬ SyncIndex s.stream i) :
    scan k s = .next s.scanMiss := by
  rcases scan_cases k s h with ⟨j, hj, -⟩ | ⟨-, he⟩
  · exact absurd hj.2.1 (hno j hj.1)
  · exact he

/-! ### The decode -/

/-- Everything `Decode(0)` can answer (41 R76). -/
theorem decodeThree_cases (s : State) :
    (s.stream.len < s.cur + 3 ∧ decodeThree s = .next s.incomplete) ∨
      (s.cur + 3 ≤ s.stream.len ∧ ∃ b1 b2 b3, s.stream.byteAt s.cur = some b1 ∧ s.stream.byteAt (s.cur + 1) = some b2 ∧
        s.stream.byteAt (s.cur + 2) = some b3 ∧
        decodeThree s = .next (s.loadHeader 3 (wordOfBytes 0xFF#8 b1 b2 b3))) := by
  unfold decodeThree
  by_cases h : s.stream.len - s.cur < 3
  · exact .inl ⟨by omega, by rw [if_pos h]⟩
  · obtain ⟨b1, h1⟩ := Stream.byteAt_eq_some_of_lt s.stream s.cur (by omega)
    obtain ⟨b2, h2⟩ := Stream.byteAt_eq_some_of_lt s.stream (s.cur + 1) (by omega)
    obtain ⟨b3, h3⟩ := Stream.byteAt_eq_some_of_lt s.stream (s.cur + 2) (by omega)
    exact .inr ⟨by omega, b1, b2, b3, h1, h2, h3, by rw [if_neg h, decodeTail]; simp only [h1, h2, h3]⟩

/-- Everything `Decode(1)` can answer (41 R76). -/
theorem decodeFour_cases (s : State) :
    (s.stream.len < s.cur + 4 ∧ decodeFour s = .next s.incomplete) ∨
      (s.cur + 4 ≤ s.stream.len ∧ ∃ b0 b1 b2 b3, s.stream.byteAt s.cur = some b0 ∧
        s.stream.byteAt (s.cur + 1) = some b1 ∧ s.stream.byteAt (s.cur + 2) = some b2 ∧
        s.stream.byteAt (s.cur + 3) = some b3 ∧
        decodeFour s = .next (s.loadHeader 4 (wordOfBytes b0 b1 b2 b3))) := by
  unfold decodeFour
  by_cases h : s.stream.len - s.cur < 4
  · exact .inl ⟨by omega, by rw [if_pos h]⟩
  · obtain ⟨b0, h0⟩ := Stream.byteAt_eq_some_of_lt s.stream s.cur (by omega)
    obtain ⟨b1, h1⟩ := Stream.byteAt_eq_some_of_lt s.stream (s.cur + 1) (by omega)
    obtain ⟨b2, h2⟩ := Stream.byteAt_eq_some_of_lt s.stream (s.cur + 2) (by omega)
    obtain ⟨b3, h3⟩ := Stream.byteAt_eq_some_of_lt s.stream (s.cur + 3) (by omega)
    refine .inr ⟨by omega, b0, b1, b2, b3, h0, h1, h2, h3, ?_⟩
    rw [if_neg h]
    simp only [h0, decodeTail, h1, show s.cur + 1 + 1 = s.cur + 2 from rfl, show s.cur + 1 + 2 = s.cur + 3 from rfl,
      h2, h3]

/-! ### The operations on the header -/

theorem withHeader_held (s : State) (f : Word → Out) (h : s.hdrv = true) : withHeader s f = f s.h := by
  simp [withHeader, State.readH, h]

theorem withHeader_none (s : State) (f : Word → Out) (h : s.hdrv = false) :
    withHeader s f = .next (s.refuse .eNoHdr) := by
  simp [withHeader, State.readH, h]

theorem validateHeader_held (s : State) (h : s.hdrv = true) :
    validateHeader s = .next (s.setVerdict (validate s.tables s.h)) := withHeader_held s _ h

theorem validateHeader_none (s : State) (h : s.hdrv = false) : validateHeader s = .next (s.refuse .eNoHdr) :=
  withHeader_none s _ h

/-- Everything a validation can answer (43 R104). -/
theorem validateHeader_cases (s : State) :
    (s.hdrv = false ∧ validateHeader s = .next (s.refuse .eNoHdr)) ∨
      (s.hdrv = true ∧ validateHeader s = .next (s.setVerdict (validate s.tables s.h))) := by
  cases h : s.hdrv
  · exact .inl ⟨rfl, validateHeader_none s h⟩
  · exact .inr ⟨rfl, validateHeader_held s h⟩

/-- Everything a table accessor can answer (42 R94, R95). -/
theorem lookup_cases (s : State) (f : Word → Option Dout) :
    (s.hdrv = false ∧ lookup s f = .next (s.refuse .eNoHdr)) ∨
      (s.hdrv = true ∧ f s.h = none ∧ lookup s f = .next (s.refuse .eBadKey)) ∨
      (s.hdrv = true ∧ ∃ d, f s.h = some d ∧ lookup s f = .next (s.setDout d)) := by
  cases h : s.hdrv
  · exact .inl ⟨rfl, withHeader_none s _ h⟩
  · rw [lookup, withHeader_held s _ h]
    cases hf : f s.h with
    | none => exact .inr (.inl ⟨rfl, rfl, by simp⟩)
    | some d => exact .inr (.inr ⟨rfl, d, rfl, by simp⟩)

/-! ### The stream words -/

/-- Everything a header row can answer. -/
theorem runHeaderWord_cases (h : Word) (s : State) :
    (s.stream.len < s.cur + 4 ∧ runHeaderWord h s = .next s.incomplete) ∨
      (s.cur + 4 ≤ s.stream.len ∧
        runHeaderWord h s = .next ((s.loadHeader 4 h).setVerdict (validate s.tables h))) := by
  unfold runHeaderWord
  by_cases hl : s.stream.len - s.cur < 4
  · exact .inl ⟨by omega, by rw [if_pos hl]⟩
  · exact .inr ⟨by omega, by rw [if_neg hl, validateHeader_held _ rfl]; rfl⟩

/-- Everything the sync row can answer. -/
theorem runSyncWord_cases (s : State) :
    (s.stream.len < s.cur + 2 ∧ runSyncWord s = .next s.scanMiss) ∨
      (s.cur + 2 ≤ s.stream.len ∧ runSyncWord s = .next (s.scanHit (s.cur + 1))) := by
  unfold runSyncWord
  by_cases hl : s.stream.len - s.cur < 2
  · exact .inl ⟨by omega, by rw [if_pos hl]⟩
  · exact .inr ⟨by omega, by rw [if_neg hl]⟩

end Sys2Proof.Machine
end

