-- ==== Sys2Proof/Laws/Driver.lean ====
section
/-! SUPPORT. What an iteration of the driver loop can do, once for each way it ends. -/

namespace Sys2Proof.Machine

variable (scanOp decodeOp : State → Out) (s : State)

/-- An iteration whose scan finds nothing ends the run as end of input (44 R116). -/
theorem driverIteration_of_scanMiss (h : scanOp s = .next s.scanMiss) :
    driverIteration scanOp decodeOp s = .next (s.scanMiss.stopRun .endOfInput) := by
  simp [driverIteration, h]

/-- An iteration whose decode is incomplete ends the run as truncated (44 R116). -/
theorem driverIteration_of_incomplete (c : Nat) (h : scanOp s = .next (s.scanHit c))
    (hd : decodeOp (s.scanHit c) = .next (s.scanHit c).incomplete) :
    driverIteration scanOp decodeOp s = .next ((s.scanHit c).incomplete.stopRun .truncated) := by
  simp [driverIteration, h, hd]

/-- An iteration that decodes a header takes the offset, validates, and reports (44 R116). -/
theorem driverIteration_of_header (c n : Nat) (H : Word) (h : scanOp s = .next (s.scanHit c))
    (hd : decodeOp (s.scanHit c) = .next ((s.scanHit c).loadHeader n H)) :
    driverIteration scanOp decodeOp s =
      .next (((s.scanHit c).loadHeader n H).takeOffset.setVerdict (validate s.tables H)).makeReport := by
  simp only [driverIteration, h, hd, andThen_next]
  rw [if_neg (by simp), if_neg (by simp), execValid, validateHeader_held _ rfl]
  rfl

end Sys2Proof.Machine
end

