-- ==== Sys2Proof/Laws/PerInstr.lean ====
section
/-! SUPPORT. The families of statements made per instruction (LAWS.json), one lemma per constructor. -/

namespace Sys2Proof.Laws.EncodedWidth

/-- An instruction's bytes are as many as its row of spec/opcode_table.json has, in whole bytes: one for a command, two for
FRAME and the sync pattern, four for a header word (30 R45, R57, R60, R61). -/
def Statement (i : Instr) : Prop :=
  (encode i).length =
    match i with
    | .scanC | .scanN | .dec3 | .dec4 | .valid | .brate | .srate | .reservedCmd7 => 1
    | .frame | .sync2 _ => 2
    | .hdr32 _ | .rsvdVer _ | .rsvdLay _ | .rsvdBri _ | .rsvdSri _ | .rsvdEmph _ | .freeBri _ => 4

theorem scanC : Statement .scanC := rfl
theorem scanN : Statement .scanN := rfl
theorem dec3 : Statement .dec3 := rfl
theorem dec4 : Statement .dec4 := rfl
theorem valid : Statement .valid := rfl
theorem brate : Statement .brate := rfl
theorem srate : Statement .srate := rfl
theorem reservedCmd7 : Statement .reservedCmd7 := rfl
theorem frame : Statement .frame := rfl
theorem hdr32 (h : Word) : Statement (.hdr32 h) := rfl
theorem sync2 (low : BitVec 5) : Statement (.sync2 low) := rfl
theorem rsvdVer (h : Word) : Statement (.rsvdVer h) := rfl
theorem rsvdLay (h : Word) : Statement (.rsvdLay h) := rfl
theorem rsvdBri (h : Word) : Statement (.rsvdBri h) := rfl
theorem rsvdSri (h : Word) : Statement (.rsvdSri h) := rfl
theorem rsvdEmph (h : Word) : Statement (.rsvdEmph h) := rfl
theorem freeBri (h : Word) : Statement (.freeBri h) := rfl

end Sys2Proof.Laws.EncodedWidth
end

