-- ==== Sys2Proof/Laws/Step.lean ====
section
/-! SUPPORT. What one step can do, once. -/

namespace Sys2Proof.Machine

/-- If the step answers `t`, the host asked for nothing, the word at the cursor ran off the end of input, the host ran its
loop with the other pairing, or an instruction that the fetched bytes decode to was run. -/
theorem step_cases (s t : State) (h : step s = .next t) :
    (fetch s = .idle ∧ t = s) ∨ fetch s = .ranOff t ∨
      (∃ rest, fetch s = .otherFrame rest ∧ runOtherFrame (s.setPort rest) = .next t) ∨
      ∃ src bs rest i, fetch s = .bytes src bs rest ∧ decode src bs = .instr i ∧ exec i (s.setPort rest) = .next t := by
  unfold step at h
  split at h
  · next hf => exact .inl ⟨hf, by simpa using h.symm⟩
  · next t' hf => exact .inr (.inl (by rw [hf]; simpa using h))
  · next rest hf => exact .inr (.inr (.inl ⟨rest, hf, h⟩))
  · next src bs rest hf =>
    split at h
    · next i hd => exact .inr (.inr (.inr ⟨src, bs, rest, i, hf, hd, h⟩))
    · cases h

/-- Everything a fetch can find beside nothing. -/
theorem fetch_cases (s : State) :
    (s.port = [] ∧ fetch s = .idle) ∨
      (∃ bs rest, s.port = .issue bs :: rest ∧ fetch s = .bytes .command bs rest) ∨
      (∃ rest, s.port = .otherFrame :: rest ∧ fetch s = .otherFrame rest) ∨
      (∃ rest, s.port = .syncAtCursor :: rest ∧
        ((s.stream.len < s.cur + 2 ∧ fetch s = .ranOff (s.setPort rest).scanMiss) ∨
          (s.cur + 2 ≤ s.stream.len ∧ ∃ b0 b1, s.stream.byteAt s.cur = some b0 ∧ s.stream.byteAt (s.cur + 1) = some b1 ∧
            fetch s = .bytes .stream [b0, b1] rest))) ∨
      (∃ rest, s.port = .headerAtCursor :: rest ∧
        ((s.stream.len < s.cur + 4 ∧ fetch s = .ranOff (s.setPort rest).incomplete) ∨
          (s.cur + 4 ≤ s.stream.len ∧ ∃ b0 b1 b2 b3, s.stream.byteAt s.cur = some b0 ∧
            s.stream.byteAt (s.cur + 1) = some b1 ∧ s.stream.byteAt (s.cur + 2) = some b2 ∧
            s.stream.byteAt (s.cur + 3) = some b3 ∧ fetch s = .bytes .stream [b0, b1, b2, b3] rest))) := by
  unfold fetch
  cases hp : s.port with
  | nil => exact .inl ⟨rfl, rfl⟩
  | cons r rest =>
    refine .inr ?_
    cases r with
    | issue bs => exact .inl ⟨bs, rest, rfl, rfl⟩
    | otherFrame => exact .inr (.inl ⟨rest, rfl, rfl⟩)
    | syncAtCursor =>
      refine .inr (.inr (.inl ⟨rest, rfl, ?_⟩))
      by_cases h : s.cur + 2 ≤ s.stream.len
      · obtain ⟨b0, b1, hb, h0, h1⟩ := Stream.bytesAt_two s.stream s.cur h
        exact .inr ⟨h, b0, b1, h0, h1, by simp only [hb]⟩
      · have hn := (Stream.bytesAt_none_iff s.stream s.cur 2).mpr (by omega)
        exact .inl ⟨by omega, by simp only [hn]⟩
    | headerAtCursor =>
      refine .inr (.inr (.inr ⟨rest, rfl, ?_⟩))
      by_cases h : s.cur + 4 ≤ s.stream.len
      · obtain ⟨b0, b1, b2, b3, hb, h0, h1, h2, h3⟩ := Stream.bytesAt_four s.stream s.cur h
        exact .inr ⟨h, b0, b1, b2, b3, h0, h1, h2, h3, by simp only [hb]⟩
      · have hn := (Stream.bytesAt_none_iff s.stream s.cur 4).mpr (by omega)
        exact .inl ⟨by omega, by simp only [hn]⟩

end Sys2Proof.Machine
end

