-- ==== Sys2Proof/Tests/Slice0.lean ====
section
/-! SUPPORT. The model's own tests. Expected values come from spec/95_test_vectors.md (V<n>, T<n>, X<n>, P<n>) or from the
encodings of spec/30_encoding.md; the witnesses show that each statement's hypotheses can be met. -/

namespace Sys2Proof.Tests

open Sys2Proof.Machine

/-! ### Helpers -/

/-- The reset state on a byte sequence, with the cursor at `c`. -/
def startOn (bytes : List Byte) (c : Nat) : State := State.launchState (Stream.ofBytes bytes) defaultTables c

/-- The reset state holding a header. -/
def holding (h : Word) : State := { State.reset with h := h, hdrv := true }

/-- A view of the next state, if there is one. -/
def view {α : Type} (f : State → α) : Out → Option α
  | .next t => some (f t)
  | .fault _ => none
  | .refused _ => none

/-- Does a sync stand at an index? -/
def syncAt (S : Stream) (i : Nat) : Bool :=
  match S.byteAt i, S.byteAt (i + 1) with
  | some b, some p => b == 0xFF#8 && topThreeSet p
  | _, _ => false

theorem syncIndex_iff_syncAt (S : Stream) (i : Nat) : SyncIndex S i ↔ syncAt S i = true := by
  unfold SyncIndex syncAt
  cases S.byteAt i <;> cases S.byteAt (i + 1) <;> simp

/-- No sync at any index from `c` on. -/
def noSyncFrom (S : Stream) (c : Nat) : Bool := (List.range S.len).all fun i => decide (i < c) || !syncAt S i

theorem no_sync_of_noSyncFrom (S : Stream) (c : Nat) (h : noSyncFrom S c = true) (i : Nat) (hi : c ≤ i) :
    ¬ SyncIndex S i := by
  intro hs
  have hl := Stream.lt_of_byteAt _ _ _ hs.1
  have hx := List.all_eq_true.mp h i (List.mem_range.mpr hl)
  simp [(syncIndex_iff_syncAt S i).mp hs, Nat.not_lt.mpr hi] at hx

/-- `i` is the least index from `c` on with a sync. -/
def leastSyncAt (S : Stream) (c i : Nat) : Bool :=
  decide (c ≤ i) && syncAt S i && (List.range i).all fun j => decide (j < c) || !syncAt S j

theorem leastSync_of_leastSyncAt (S : Stream) (c i : Nat) (h : leastSyncAt S c i = true) : LeastSyncFrom S c i := by
  simp only [leastSyncAt, Bool.and_eq_true, decide_eq_true_eq] at h
  refine ⟨h.1.1, (syncIndex_iff_syncAt S i).mpr h.1.2, fun j hj hji hs => ?_⟩
  have hx := List.all_eq_true.mp h.2 j (List.mem_range.mpr hji)
  simp [(syncIndex_iff_syncAt S j).mp hs, Nat.not_lt.mpr hj] at hx

/-- The stream of V10. -/
def v10 : List Byte := [0x00, 0xFF, 0x00, 0xFF, 0xFB, 0x90, 0x64]
/-- The stream of P1. -/
def p1 : List Byte := [0xFF, 0xFB, 0x90, 0x64, 0xFF, 0xFB, 0x90, 0x64]
/-- The stream of P2. -/
def p2 : List Byte := [0x00, 0xFF, 0x00, 0xFF, 0xFB, 0x90, 0x02, 0xFF, 0xE0]
/-- The source's test header, T5. -/
def t5 : List Byte := [0xFF, 0xFB, 0x90, 0x64]

/-! ### Well-formedness: an ill-formed term for each check -/

theorem test_wf_refuses_header_without_sync : (Instr.hdr32 0xFFDFFFFF#32).wf = false := by decide
theorem test_wf_refuses_legal_version : (Instr.rsvdVer 0x00180000#32).wf = false := by decide
theorem test_wf_refuses_legal_layer : (Instr.rsvdLay 0x00021000#32).wf = false := by decide
theorem test_wf_refuses_legal_bitrate_index : (Instr.rsvdBri 0x0000E000#32).wf = false := by decide
theorem test_wf_refuses_legal_sample_rate_index : (Instr.rsvdSri 0x00000800#32).wf = false := by decide
theorem test_wf_refuses_legal_emphasis : (Instr.rsvdEmph 0x00000003#32).wf = false := by decide
theorem test_wf_refuses_indexed_bitrate : (Instr.freeBri 0x00021000#32).wf = false := by decide
theorem test_wf_refuses_row_tried_before :
    (Instr.rsvdVer 0xFFE80000#32).wf = false ∧ (Instr.rsvdBri 0x0008F000#32).wf = false ∧
      (Instr.rsvdSri 0x0000FC00#32).wf = false ∧ (Instr.rsvdEmph 0x00000C02#32).wf = false ∧
      (Instr.rsvdLay 0x00000002#32).wf = false ∧ (Instr.freeBri 0x00000000#32).wf = false := by decide

/-! ### Decoding: every row, from its word in 30 sections 1, 4, 5, 6 and 8 and 42 R89, written bit by bit -/

theorem test_decode_scanC : decodeTableWord 8 0b000 = some .scanC := by decide
theorem test_decode_scanN : decodeTableWord 8 0b001 = some .scanN := by decide
theorem test_decode_dec3 : decodeTableWord 8 0b010 = some .dec3 := by decide
theorem test_decode_dec4 : decodeTableWord 8 0b011 = some .dec4 := by decide
theorem test_decode_valid : decodeTableWord 8 0b100 = some .valid := by decide
theorem test_decode_brate : decodeTableWord 8 0b101 = some .brate := by decide
theorem test_decode_srate : decodeTableWord 8 0b110 = some .srate := by decide
theorem test_decode_reservedCmd7 : decodeTableWord 8 0b111 = some .reservedCmd7 := by decide
theorem test_decode_frame : decodeTableWord 16 0b000010100 = some .frame := by decide
theorem test_decode_hdr32 :
    decodeTableWord 32 0b11111111111110111001000001100100 = some (.hdr32 0xFFFB9064#32) := by decide
theorem test_decode_sync2 : decodeTableWord 16 0b1111111111100110 = some (.sync2 0b00110#5) := by decide
theorem test_decode_rsvdVer :
    decodeTableWord 32 0b00000000000010100001000000000000 = some (.rsvdVer 0x000A1000#32) := by decide
theorem test_decode_rsvdLay :
    decodeTableWord 32 0b00000000000000010001000000000000 = some (.rsvdLay 0x00011000#32) := by decide
theorem test_decode_rsvdBri :
    decodeTableWord 32 0b00000000000110101111000000000000 = some (.rsvdBri 0x001AF000#32) := by decide
theorem test_decode_rsvdSri :
    decodeTableWord 32 0b00000000000110100001110000000000 = some (.rsvdSri 0x001A1C00#32) := by decide
theorem test_decode_rsvdEmph :
    decodeTableWord 32 0b00000000000110100001000000000010 = some (.rsvdEmph 0x001A1002#32) := by decide
theorem test_decode_freeBri :
    decodeTableWord 32 0b00000000000110100000000000000000 = some (.freeBri 0x001A0000#32) := by decide
theorem test_decode_rejects_by_name :
    decode .command [0b00001000#8] = .rejected .commandBits ∧
      decode .command [0x00#8, 0x15#8] = .rejected .notFrame ∧
      decode .stream [0xFF#8, 0xDF#8] = .rejected .notSync ∧
      decode .stream [0x00#8, 0x1A#8, 0x10#8, 0x00#8] = .rejected .noHeaderRow ∧
      decode .command [] = .rejected .length ∧ decode .stream [0xFF#8] = .rejected .length := by decide

/-! ### One step each -/

/-- V10. -/
theorem test_scanC_skips_a_failed_candidate :
    view (fun t => (t.cur, t.status)) (exec .scanC (startOn v10 0)) = some (4, 0x0011#16) := by decide
/-- V5. -/
theorem test_scanC_needs_three_set_bits :
    view (fun t => (t.cur, t.status)) (exec .scanC (startOn [0xFF, 0xDF] 0)) = some (2, 0x0002#16) := by decide
/-- V10. -/
theorem test_scanN_stands_on_the_sync_byte :
    view (fun t => (t.cur, t.status)) (exec .scanN (startOn v10 0)) = some (3, 0x0011#16) := by decide
/-- V9. -/
theorem test_scanN_last_byte_is_no_match :
    view (fun t => (t.cur, t.status)) (exec .scanN (startOn [0x00, 0xFF] 0)) = some (2, 0x0002#16) := by decide
/-- V28. -/
theorem test_dec3_supplies_the_first_byte :
    view (fun t => (t.cur, t.readH, t.status)) (exec .dec3 (startOn [0x00, 0x00, 0x00] 0)) =
      some (3, some 0xFF000000#32, 0x0023#16) := by decide
/-- V26. -/
theorem test_dec3_incomplete_gives_up_the_rest :
    view (fun t => (t.cur, t.readH, t.status)) (exec .dec3 (startOn t5 2)) = some (4, none, 0x0004#16) := by decide
/-- V27. -/
theorem test_dec4_takes_any_bytes :
    view (fun t => (t.cur, t.readH, t.status)) (exec .dec4 (startOn [0x12, 0x34, 0x56, 0x78] 0)) =
      some (4, some 0x12345678#32, 0x0023#16) := by decide
/-- V24. -/
theorem test_dec4_incomplete :
    view (fun t => (t.cur, t.readH, t.status)) (exec .dec4 (startOn [0xFF, 0xFB, 0x90] 0)) =
      some (3, none, 0x0004#16) := by decide
/-- V94, V99, V100. -/
theorem test_valid_reason_in_order :
    view (fun t => (t.reason, t.res)) (exec .valid (holding 0xFFFDB0C2#32)) =
        some (.invalidLayerIIBitrateAndMode, .rInvalid) ∧
      view (fun t => (t.reason, t.res)) (exec .valid (holding 0xFFFFFFFF#32)) =
        some (.invalidBitrateForVersion, .rInvalid) ∧
      view (fun t => (t.reason, t.res)) (exec .valid (holding 0xFFFB0000#32)) = some (.noReason, .rValid) := by decide
/-- The boundaries of step 5: V54, V50, V60, V61, V62, V63, V72, V66. -/
theorem test_valid_layer_two_boundaries :
    [0xFFFDA0C0#32, 0xFFFDB0C0#32, 0xFFFD3000#32, 0xFFFD4000#32, 0xFFFD5000#32, 0xFFFD6000#32, 0xFFF54000#32,
        0xFFFD0000#32].map (fun h => (validate defaultTables h).code) =
      [0#3, 5#3, 5#3, 0#3, 5#3, 0#3, 5#3, 0#3] := by decide
/-- V38, V41. -/
theorem test_brate_value_and_free :
    view (fun t => (t.dout, t.res)) (exec .brate (holding 0xFFE7E803#32)) = some (⟨.value, 256000#32⟩, .rLookup) ∧
      view (fun t => (t.dout, t.res)) (exec .brate (holding 0xFFFB0000#32)) = some (⟨.free, 0#32⟩, .rLookup) := by decide
/-- V42, V44. -/
theorem test_brate_invalid_and_bad_key :
    view (fun t => (t.dout, t.res)) (exec .brate (holding 0xFFFFFFFF#32)) = some (⟨.invalid, 0#32⟩, .rLookup) ∧
      view (fun t => t.status) (exec .brate (holding 0xFFF99064#32)) = some 0x0029#16 := by decide
/-- V40, V44. -/
theorem test_srate_ignores_the_layer :
    view (fun t => (t.dout, t.res)) (exec .srate (holding 0x12345678#32)) = some (⟨.value, 24000#32⟩, .rLookup) ∧
      view (fun t => (t.dout, t.res)) (exec .srate (holding 0xFFF99064#32)) = some (⟨.value, 44100#32⟩, .rLookup) := by
  decide
/-- V43, V45. -/
theorem test_srate_reserved_and_bad_key :
    view (fun t => (t.dout, t.res)) (exec .srate (holding 0xFFE2EC03#32)) = some (⟨.reserved, 0#32⟩, .rLookup) ∧
      view (fun t => t.res) (exec .srate (holding 0xFFEB9064#32)) = some .eBadKey := by decide
/-- X6. -/
theorem test_reservedCmd7_keeps_the_header :
    view (fun t => t.status) (exec .reservedCmd7 (holding 0xFFFB9064#32)) = some 0x002A#16 := by decide
/-- P2: steps 1 to 3 from its start, steps 4 and 5 from the cursor after them, where one byte is left for the header. -/
theorem test_frame_reports_an_invalid_header_and_ends_truncated :
    view (fun t => (t.cur, t.status, t.reports, t.vcount, t.offset)) (exec .frame (startOn p2 0)) =
        some (7, 0x0376#16, [⟨7, 0xFFFB9002#32, .invalidEmphasis⟩], 0, 7) ∧
      view (fun t => (t.cur, t.status, t.reports, t.runEnd)) (exec .frame (startOn p2 7)) =
        some (9, 0x0014#16, [], some .truncated) := by decide
/-- T5's header in a four-byte window, validated: the status of V31. -/
theorem test_hdr32_runs_as_a_fetched_word :
    view (fun t => (t.cur, t.readH, t.status)) (step (State.reset.withFetchWord 32 0xFFFB9064)) =
      some (4, some 0xFFFB9064#32, 0x0065#16) := by decide
/-- V4 through the table row. -/
theorem test_sync2_matches_at_the_cursor :
    view (fun t => (t.cur, t.status)) (step (State.reset.withFetchWord 16 0xFFE0)) = some (1, 0x0011#16) := by decide
/-- V107. -/
theorem test_rsvdVer_reason :
    view (fun t => t.status) (step (State.reset.withFetchWord 32 0x000A0000)) = some 0x00E6#16 := by decide
/-- V106's bits with BRI = 1: reason 2, the layer being reserved. -/
theorem test_rsvdLay_reason :
    view (fun t => t.status) (step (State.reset.withFetchWord 32 0x00001000)) = some 0x0166#16 := by decide
/-- The masked form of T6's MPEG_1 LAYER_3 header. -/
theorem test_rsvdBri_reason :
    view (fun t => t.status) (step (State.reset.withFetchWord 32 0x001AF000)) = some 0x01E6#16 := by decide
/-- V86 without the sync and the emphasis: reason 4. -/
theorem test_rsvdSri_reason :
    view (fun t => t.status) (step (State.reset.withFetchWord 32 0x001B9C00)) = some 0x0266#16 := by decide
/-- V83 without the sync: reason 6. -/
theorem test_rsvdEmph_reason :
    view (fun t => t.status) (step (State.reset.withFetchWord 32 0x001B9002)) = some 0x0366#16 := by decide
/-- V101 without the sync: free format is accepted. -/
theorem test_freeBri_accepted :
    view (fun t => t.status) (step (State.reset.withFetchWord 32 0x001A0000)) = some 0x0065#16 := by decide
/-- T9: two frames of P1, the second from the state after the first. -/
theorem test_frame_counts_two_frames :
    view (fun t => (t.cur, t.vcount, t.reports)) (andThen (exec .frame (startOn p1 0)) (exec .frame)) =
      some (8, 2, [⟨4, 0xFFFB9064#32, .noReason⟩, ⟨8, 0xFFFB9064#32, .noReason⟩]) := by decide

/-! ### Witnesses: the hypotheses of each statement, met together -/

theorem witness_EncodeThenDecodeReturnsInstruction :
    [Instr.scanC, .scanN, .dec3, .dec4, .valid, .brate, .srate, .reservedCmd7, .frame, .sync2 0b11011#5,
      .hdr32 0xFFFB9064#32, .rsvdVer 0x000A1000#32, .rsvdLay 0x00001000#32, .rsvdBri 0x001AF000#32,
      .rsvdSri 0x001A1C00#32, .rsvdEmph 0x001A1002#32, .freeBri 0x001A0000#32].all Instr.wf = true := by decide

theorem witness_DecodedInstructionReencodesToItsBytes :
    decode .command [0x00#8, 0x14#8] = .instr .frame ∧
      decode .stream [0x00#8, 0x1A#8, 0x00#8, 0x00#8] = .instr (.freeBri 0x001A0000#32) := by decide

/-- A command, the sync pattern at the cursor and a header word at the cursor, the last at the stream's last four bytes. -/
theorem witness_StepRunsTheDecodedInstruction :
    (({ startOn t5 0 with port := [.issue [0x03#8], .syncAtCursor] } : State).port = .issue [0x03#8] :: [.syncAtCursor] ∧
        decode .command [0x03#8] = .instr .dec4) ∧
      (({ startOn t5 0 with port := [.syncAtCursor] } : State).port = .syncAtCursor :: [] ∧
        (startOn t5 0).stream.byteAt 0 = some 0xFF#8 ∧ (startOn t5 0).stream.byteAt (0 + 1) = some 0xFB#8 ∧
        decode .stream [0xFF#8, 0xFB#8] = .instr (.sync2 0b11011#5)) ∧
      (({ startOn t5 0 with port := [.headerAtCursor] } : State).port = .headerAtCursor :: [] ∧
        (startOn t5 0).stream.byteAt 0 = some 0xFF#8 ∧ (startOn t5 0).stream.byteAt (0 + 1) = some 0xFB#8 ∧
        (startOn t5 0).stream.byteAt (0 + 2) = some 0x90#8 ∧ (startOn t5 0).stream.byteAt (0 + 3) = some 0x64#8 ∧
        decode .stream [0xFF#8, 0xFB#8, 0x90#8, 0x64#8] = .instr (.hdr32 0xFFFB9064#32)) := by decide

/-- No request; bytes that are no row, presented, as a pair (FF DF) and as a word; one byte short of a sync pattern and of a header word. -/
theorem witness_StepWithoutAnInstruction :
    State.reset.port = [] ∧
      (({ State.reset with port := [.issue [0x08#8]] } : State).port = .issue [0x08#8] :: [] ∧
        decode .command [0x08#8] = .rejected .commandBits) ∧
      (({ startOn [0xFF, 0xDF] 0 with port := [.syncAtCursor] } : State).port = .syncAtCursor :: [] ∧
        (startOn [0xFF, 0xDF] 0).stream.byteAt 0 = some 0xFF#8 ∧
        (startOn [0xFF, 0xDF] 0).stream.byteAt (0 + 1) = some 0xDF#8 ∧
        ¬ (0xFF#8 = 0xFF#8 ∧ (0xDF#8).extractLsb 7 5 = 0b111#3)) ∧
      (({ startOn [0x00, 0x1A, 0x10, 0x00] 0 with port := [.headerAtCursor] } : State).port = .headerAtCursor :: [] ∧
        (startOn [0x00, 0x1A, 0x10, 0x00] 0).stream.bytesAt 0 4 = some [0x00#8, 0x1A#8, 0x10#8, 0x00#8] ∧
        syncBits 0x001A1000#32 ≠ 0x7FF#11 ∧ verBits 0x001A1000#32 ≠ 0b01#2 ∧ layBits 0x001A1000#32 ≠ 0b00#2 ∧
        briBits 0x001A1000#32 ≠ 0b1111#4 ∧ briBits 0x001A1000#32 ≠ 0b0000#4 ∧ sriBits 0x001A1000#32 ≠ 0b11#2 ∧
        emphBits 0x001A1000#32 ≠ 0b10#2) ∧
      (({ startOn t5 3 with port := [.syncAtCursor] } : State).port = .syncAtCursor :: [] ∧
        (startOn t5 3).stream.len < 3 + 2) ∧
      (({ startOn t5 1 with port := [.headerAtCursor] } : State).port = .headerAtCursor :: [] ∧
        (startOn t5 1).stream.len < 1 + 4) := by decide

/-- A match at the last place one can stand (V4) and one after others (V10); no match with bytes left (V5) and none at the
end of input (V16). -/
theorem witness_ScanCStopsAfterTheLeastSync :
    ((startOn [0xFF, 0xE0] 0).cur ≤ (startOn [0xFF, 0xE0] 0).stream.len ∧
        LeastSyncFrom (startOn [0xFF, 0xE0] 0).stream 0 0) ∧
      LeastSyncFrom (startOn v10 0).stream 0 3 ∧
      (∀ i, 0 ≤ i → ¬ SyncIndex (startOn [0xFF, 0xDF] 0).stream i) ∧
      ((startOn [0xFF, 0xE0] 2).cur ≤ (startOn [0xFF, 0xE0] 2).stream.len ∧
        ∀ i, 2 ≤ i → ¬ SyncIndex (startOn [0xFF, 0xE0] 2).stream i) :=
  ⟨⟨by decide, leastSync_of_leastSyncAt _ _ _ (by decide)⟩, leastSync_of_leastSyncAt _ _ _ (by decide),
    no_sync_of_noSyncFrom _ _ (by decide), by decide, no_sync_of_noSyncFrom _ _ (by decide)⟩

theorem witness_ScanNStopsOnTheLeastSync :
    ((startOn v10 1).cur ≤ (startOn v10 1).stream.len ∧ LeastSyncFrom (startOn v10 1).stream (startOn v10 1).cur 3) ∧
      ((startOn v10 4).cur ≤ (startOn v10 4).stream.len ∧
        ∀ i, (startOn v10 4).cur ≤ i → ¬ SyncIndex (startOn v10 4).stream i) :=
  ⟨⟨by decide, leastSync_of_leastSyncAt _ _ _ (by decide)⟩, by decide, no_sync_of_noSyncFrom _ _ (by decide)⟩

theorem witness_ScanPastTheEndStops : (startOn t5 5).stream.len < (startOn t5 5).cur := by decide

/-- Both cases of the comparison occur (T2). -/
theorem witness_ScanVariantsDifferByOneOnAMatch :
    ((startOn v10 0).cur ≤ (startOn v10 0).stream.len ∧
        view (fun t => t.res) (exec .scanC (startOn v10 0)) = some .rMatch) ∧
      ((startOn t5 4).cur ≤ (startOn t5 4).stream.len ∧
        view (fun t => t.res) (exec .scanC (startOn t5 4)) = some .rNoMatch) := by decide

/-- V20 with DF for 1F: the greatest second byte that fails, and a fully-set last byte. -/
theorem witness_NoSyncByteYieldsNoMatch :
    let s := startOn [0xFF, 0xDF, 0xFF] 0
    s.cur ≤ s.stream.len ∧
      ∀ i p, s.stream.byteAt i = some 0xFF#8 → s.stream.byteAt (i + 1) = some p → p.toNat < 0xE0 := by
  refine ⟨by decide, fun i p _ hp => ?_⟩
  have hl := Stream.lt_of_byteAt _ _ _ hp
  have hlen : (startOn [0xFF, 0xDF, 0xFF] 0).stream.len = 3 := by decide
  have hcases : i = 0 ∨ i = 1 := by omega
  rcases hcases with rfl | rfl
  · have := hp.symm.trans (show (startOn [0xFF, 0xDF, 0xFF] 0).stream.byteAt (0 + 1) = some 0xDF#8 by decide)
    cases this
    decide
  · rename_i h
    exact absurd h (by decide)

/-- T1. -/
theorem witness_SingleSyncIsFoundOnce :
    let s := startOn [0x00, 0x00, 0xFF, 0xE0, 0x00] 0
    s.cur ≤ s.stream.len ∧ s.cur ≤ 2 ∧ SyncIndex s.stream 2 ∧
      ∀ j, s.cur ≤ j → SyncIndex s.stream j → j = 2 := by
  refine ⟨by decide, by decide, (syncIndex_iff_syncAt _ _).mpr (by decide), fun j _ hj => ?_⟩
  have hl := Stream.lt_of_byteAt _ _ _ hj.1
  have hlen : (startOn [0x00, 0x00, 0xFF, 0xE0, 0x00] 0).stream.len = 5 := by decide
  have hs := (syncIndex_iff_syncAt _ _).mp hj
  have hcases : j = 0 ∨ j = 1 ∨ j = 2 ∨ j = 3 ∨ j = 4 := by omega
  rcases hcases with rfl | rfl | rfl | rfl | rfl
  · exact absurd hs (by decide)
  · exact absurd hs (by decide)
  · rfl
  · exact absurd hs (by decide)
  · exact absurd hs (by decide)

/-- X3. -/
theorem witness_RepeatedScanNStandsStill :
    let s := startOn [0x00, 0x00, 0xFF, 0xFB, 0x90, 0x64] 0
    (∃ t, exec .scanN s = .next t ∧ t.res = .rMatch) ∧ (∃ t, exec .scanC s = .next t ∧ t.res = .rMatch) :=
  ⟨⟨_, rfl, by decide⟩, ⟨_, rfl, by decide⟩⟩

/-- Three bytes left exactly (V21) and two (V26). -/
theorem witness_Dec3DecodesThreeBytesOrIsIncomplete :
    ((startOn t5 1).stream.byteAt (startOn t5 1).cur = some 0xFB#8 ∧
        (startOn t5 1).stream.byteAt ((startOn t5 1).cur + 1) = some 0x90#8 ∧
        (startOn t5 1).stream.byteAt ((startOn t5 1).cur + 2) = some 0x64#8) ∧
      (startOn t5 2).stream.len < (startOn t5 2).cur + 3 := by decide

/-- Four bytes left exactly (V22) and three. -/
theorem witness_Dec4DecodesFourBytesOrIsIncomplete :
    ((startOn t5 0).stream.byteAt (startOn t5 0).cur = some 0xFF#8 ∧
        (startOn t5 0).stream.byteAt ((startOn t5 0).cur + 1) = some 0xFB#8 ∧
        (startOn t5 0).stream.byteAt ((startOn t5 0).cur + 2) = some 0x90#8 ∧
        (startOn t5 0).stream.byteAt ((startOn t5 0).cur + 3) = some 0x64#8) ∧
      (startOn t5 1).stream.len < (startOn t5 1).cur + 4 := by decide

/-- The pairings on a whole header (T5), on a truncated one and on no sync. -/
theorem witness_ScanAndDecodePairingsAgree :
    ((startOn t5 0).cur ≤ (startOn t5 0).stream.len ∧
        view (fun t => t.res) (andThen (exec .scanC (startOn t5 0)) (exec .dec3)) = some .rDecoded) ∧
      ((startOn [0xFF, 0xE0] 0).cur ≤ (startOn [0xFF, 0xE0] 0).stream.len ∧
        view (fun t => t.res) (andThen (exec .scanC (startOn [0xFF, 0xE0] 0)) (exec .dec3)) = some .rIncomplete) ∧
      ((startOn t5 4).cur ≤ (startOn t5 4).stream.len ∧
        view (fun t => t.res) (exec .scanN (startOn t5 4)) = some .rNoMatch) := by decide

/-- `LEN - i` is 2, 3 and 4. -/
theorem witness_TruncatedHeaderAfterAMatch :
    (∀ n ∈ [2, 3, 4], (startOn (t5.take n) 0).cur ≤ (startOn (t5.take n) 0).stream.len ∧
        leastSyncAt (startOn (t5.take n) 0).stream 0 0 = true ∧ (startOn (t5.take n) 0).stream.len - 0 = n) ∧
      LeastSyncFrom (startOn (t5.take 2) 0).stream (startOn (t5.take 2) 0).cur 0 ∧
      LeastSyncFrom (startOn t5 0).stream (startOn t5 0).cur 0 :=
  ⟨by decide, leastSync_of_leastSyncAt _ _ _ (by decide), leastSync_of_leastSyncAt _ _ _ (by decide)⟩

/-- X1, with the last byte cut off: three bytes from the sync index suffice. -/
theorem witness_MixedPairingShiftsTheHeader :
    let s := startOn (t5.take 3) 0
    s.cur ≤ s.stream.len ∧ LeastSyncFrom s.stream s.cur 0 ∧ s.stream.byteAt (0 + 1) = some 0xFB#8 ∧
      s.stream.byteAt (0 + 2) = some 0x90#8 :=
  ⟨by decide, leastSync_of_leastSyncAt _ _ _ (by decide), by decide, by decide⟩

theorem witness_ValidLatchesTheVerdict :
    (holding 0xFFFB9064#32).hdrv = true ∧ State.reset.hdrv = false := by decide

/-- A word for each step of the validator: V93, V90, V88, V86, V94, V95, V97; step 5's bounds V50, V54, V57, V60, V61, V62. -/
theorem witness_ValidatorAppliesSixOrderedSteps :
    (fields 0xFFE9FC02#32).version = .invalid ∧
      ((fields 0xFFF99064#32).version ≠ .invalid ∧ (fields 0xFFF99064#32).layer = .invalid) ∧
      bitrateOf defaultTables 0xFFFBF002#32 = some .invalid ∧
      (bitrateOf defaultTables 0xFFFB9C02#32 = some (.bps 128000) ∧ sampleRateOf defaultTables 0xFFFB9C02#32 = some .reserved) ∧
      (bitrateOf defaultTables 0xFFFDB0C2#32 = some (.bps 224000) ∧ (fields 0xFFFDB0C2#32).mode = .single ∧
        (fields 0xFFFDB0C2#32).layer = .layer2 ∧ sampleRateOf defaultTables 0xFFFDB0C2#32 = some (.hz 44100)) ∧
      (bitrateOf defaultTables 0xFFFD4002#32 = some (.bps 64000) ∧ (fields 0xFFFD4002#32).emphasis = .invalid ∧
        (fields 0xFFFD4002#32).mode = .stereo) ∧
      (bitrateOf defaultTables 0xFFFFEBFD#32 = some (.bps 448000) ∧ sampleRateOf defaultTables 0xFFFFEBFD#32 = some (.hz 32000) ∧
        (fields 0xFFFFEBFD#32).layer = .layer1 ∧ (fields 0xFFFFEBFD#32).emphasis = .ms5015) ∧
      [0xFFFDB0C0#32, 0xFFFDA0C0#32, 0xFFFD1000#32, 0xFFFD3000#32, 0xFFFD4000#32, 0xFFFD5000#32].map
          (bitrateOf defaultTables) =
        [some (.bps 224000), some (.bps 192000), some (.bps 32000), some (.bps 56000), some (.bps 64000),
          some (.bps 80000)] := by decide

/-- Two words that differ outside the fourteen bits (section 3.4's last paragraph). -/
theorem witness_VerdictReadsFourteenBits :
    0xFFFB9064#32 ≠ 0x001A9040#32 ∧ 0xFFFB9064#32 &&& 0x001EFCC3#32 = 0x001A9040#32 &&& 0x001EFCC3#32 := by decide

/-- Other tables with the same properties: numbers of no MPEG table, but in the LAYER_2 rows. -/
def otherTables : Tables :=
  let row : Vector Bitrate 16 := #v[.free, .bps 7, .bps 7, .bps 7, .bps 7, .bps 7, .bps 7, .bps 7, .bps 7, .bps 7,
    .bps 7, .bps 7, .bps 7, .bps 7, .bps 7, .invalid]
  let column : Vector SampleRate 4 := #v[.hz 1, .hz 1, .hz 1, .reserved]
  { defaultTables with v1l1 := row, v1l3 := row, v2l1 := row, v2l3 := row, mpeg1 := column, mpeg2 := column,
                       mpeg25 := column }

theorem number_of_bitrate (b : Bitrate) (h : b.isNumber = true) : ∃ n, 0 < n.toNat ∧ b = .bps n := by
  cases b with
  | bps n => exact ⟨n, by simp [Bitrate.isNumber] at h; bv_omega, rfl⟩
  | free => cases h
  | invalid => cases h

theorem number_of_sampleRate (r : SampleRate) (h : r.isNumber = true) : ∃ n, 0 < n.toNat ∧ r = .hz n := by
  cases r with
  | hz n => exact ⟨n, by simp [SampleRate.isNumber] at h; bv_omega, rfl⟩
  | reserved => cases h

theorem otherTables_p3 : otherTables.P3 := by
  have hall : ∀ c l, ∀ i : BitVec 4, i ≠ 0b0000#4 → i ≠ 0b1111#4 → (otherTables.bitrate c l i).isNumber = true := by
    intro c l
    cases c <;> cases l <;> decide
  exact fun c l i h0 h15 => number_of_bitrate _ (hall c l i h0 h15)

theorem otherTables_p4 : otherTables.P4 := by
  have hall : ∀ v, ∀ i : BitVec 2, i ≠ 0b11#2 → (otherTables.sampleRate v i).isNumber = true := by
    intro v
    cases v <;> decide
  exact fun v => ⟨by cases v <;> rfl, fun i hi => number_of_sampleRate _ (hall v i hi)⟩

theorem otherTables_props : otherTables.P1 ∧ otherTables.P2 ∧ otherTables.P3 ∧ otherTables.P4 ∧ otherTables.P5 :=
  ⟨fun c l => by cases c <;> cases l <;> rfl, fun c l => by cases c <;> cases l <;> rfl, otherTables_p3, otherTables_p4,
    fun c _ => by cases c <;> rfl⟩

theorem witness_VerdictsRestOnTableProperties :
    (otherTables.P1 ∧ otherTables.P2 ∧ otherTables.P3 ∧ otherTables.P4 ∧ otherTables.P5) ∧
      otherTables.bitrate .v1 .l1 1#4 ≠ defaultTables.bitrate .v1 .l1 1#4 := ⟨otherTables_props, by decide⟩

/-- BRATE and SRATE report what the machine's tables hold (42 R96). -/
theorem test_lookups_use_the_configured_tables :
    view (fun t => t.dout) (exec .brate { holding 0xFFFB9064#32 with tables := otherTables }) = some ⟨.value, 7#32⟩ ∧
      view (fun t => t.dout) (exec .srate { holding 0xFFFB9064#32 with tables := otherTables }) =
        some ⟨.value, 1#32⟩ := by decide

/-- With other tables: V93, V89, V87, V86, V83, V82, V94 (reason 5 with a reserved emphasis) and V50 (reason 5 without one). -/
theorem witness_ReservedCodePointsGiveReasons :
    (otherTables.P1 ∧ otherTables.P2 ∧ otherTables.P3 ∧ otherTables.P4 ∧ otherTables.P5) ∧
      (hasReservedVersion 0xFFE9FC02#32 = true ∧
      (hasReservedVersion 0xFFF9F002#32 = false ∧ hasReservedLayer 0xFFF9F002#32 = true) ∧
      [0xFFFBFC02#32, 0xFFFB9C02#32, 0xFFFB9002#32, 0xFFFDB0C2#32, 0xFFFB9064#32, 0xFFFDB0C0#32].map (fun h =>
          (hasReservedVersion h, hasReservedLayer h, hasInvalidBitrate h, hasReservedSampleRate h,
            hasReservedEmphasis h)) =
        [(false, false, true, true, true), (false, false, false, true, true), (false, false, false, false, true),
          (false, false, false, false, true), (false, false, false, false, false),
          (false, false, false, false, false)]) :=
  ⟨otherTables_props, by decide⟩

/-- With other tables: V66 and V67, free format in Layer II, both kinds of mode. -/
theorem witness_FreeFormatIsAccepted :
    (otherTables.P1 ∧ otherTables.P2 ∧ otherTables.P3 ∧ otherTables.P4 ∧ otherTables.P5) ∧
      ([0xFFFD0000#32, 0xFFFD00C0#32].map (fun h =>
        (hasFreeBitrate h, hasReservedVersion h, hasReservedLayer h, hasReservedSampleRate h, hasReservedEmphasis h)) =
      [(true, false, false, false, false), (true, false, false, false, false)]) :=
  ⟨otherTables_props, by decide⟩

/-- No header, a reserved key (V44, V45), and the three kinds of result (V33, V41, V42). -/
theorem witness_BrateLooksUpTheBitrate :
    State.reset.hdrv = false ∧
      ((holding 0xFFF99064#32).hdrv = true ∧ (fields (holding 0xFFF99064#32).h).layer = .invalid) ∧
      (fields (holding 0xFFEB9064#32).h).version = .invalid ∧
      [0xFFFB9064#32, 0xFFFB0000#32, 0xFFFFFFFF#32].map (fun h => bitrateOf defaultTables (holding h).h) =
        [some (.bps 128000), some .free, some .invalid] := by decide

/-- No header, a reserved version (V45), and both kinds of result (V33, V42). -/
theorem witness_SrateLooksUpTheSampleRate :
    State.reset.hdrv = false ∧
      ((holding 0xFFEB9064#32).hdrv = true ∧ (fields (holding 0xFFEB9064#32).h).version = .invalid) ∧
      [0xFFFB9064#32, 0xFFFFFFFF#32].map (fun h => sampleRateOf defaultTables (holding h).h) =
        [some (.hz 44100), some .reserved] := by decide

/-- With other tables: V42 and V41, and an index between the sentinels. -/
theorem witness_SentinelsStandAtTheirIndices :
    (otherTables.P1 ∧ otherTables.P2 ∧ otherTables.P3 ∧ otherTables.P4 ∧ otherTables.P5) ∧
      ([0xFFFFFFFF#32, 0xFFFB0000#32, 0xFFFB9064#32].map (fun h => ((fields h).version, (fields h).layer)) =
      [(.mpeg1, .layer1), (.mpeg1, .layer3), (.mpeg1, .layer3)]) :=
  ⟨otherTables_props, by decide⟩

theorem witness_DefaultTableFacts :
    (defaultTables.bitrate .v1 .l2 13#4 = .bps 320000 ∧ defaultTables.bitrate .v1 .l2 14#4 = .bps 384000 ∧ 13#4 < 14#4) ∧
      defaultTables.sampleRate .mpeg1 0#2 = .hz 44100 := by decide

/-- Each of the three refusals. -/
theorem witness_RefusalsWriteOnlyTheResult :
    (∃ t, exec .valid State.reset = .next t ∧ t.res = .eNoHdr) ∧
      (∃ t, exec .brate (holding 0xFFF99064#32) = .next t ∧ t.res = .eBadKey) ∧
      (∃ t, exec .reservedCmd7 State.reset = .next t ∧ t.res = .eBadCmd) :=
  ⟨⟨_, rfl, by decide⟩, ⟨_, rfl, by decide⟩, ⟨_, rfl, by decide⟩⟩

/-- With no byte left and with some. -/
theorem witness_EveryInstructionCompletes :
    State.reset.cur ≤ State.reset.stream.len ∧ (startOn p2 8).cur ≤ (startOn p2 8).stream.len := by decide

/-- Each clause's commands give a next state, with a result of either kind where the clause tells them apart. -/
theorem witness_CommandsTouchOnlyTheirRegisters :
    ∀ i ∈ [Instr.scanC, .scanN, .dec3, .dec4, .valid, .brate, .srate, .reservedCmd7, .sync2 0#5, .hdr32 0xFFFB9064#32],
      (view (fun _ => ()) (exec i (startOn v10 2))).isSome = true ∧
        (view (fun _ => ()) (exec i (startOn v10 6))).isSome = true := by decide

theorem witness_StreamNeverChanges :
    ∃ t, step { startOn v10 0 with port := [.issue [0x00#8]] } = .next t ∧ t.cur = 4 := ⟨_, rfl, by decide⟩

theorem witness_CursorNeverMovesBack :
    (startOn v10 0).cur ≤ (startOn v10 0).stream.len ∧
      ∃ t, step { startOn v10 0 with port := [.issue [0x01#8]] } = .next t ∧ t.cur = 3 :=
  ⟨by decide, _, rfl, by decide⟩

theorem witness_OnlyLookupsWriteDout :
    ∃ t, exec .brate (holding 0xFFFB9064#32) = .next t ∧ t.dout ≠ (holding 0xFFFB9064#32).dout := ⟨_, rfl, by decide⟩

/-- A launch at the end of its stream, launches refused one past it and with wrong tables, and a restart. -/
theorem witness_ResetLeavesTheSpecifiedValues :
    State.launch (Stream.ofBytes t5) defaultTables 4 = some (startOn t5 4) ∧
      State.launch (Stream.ofBytes t5) defaultTables 5 = none ∧
      State.launch (Stream.ofBytes t5) { defaultTables with v1l2 := defaultTables.v1l3 } 4 = none ∧
      (startOn t5 4).restart 0 = some (startOn t5 0) := by
  refine ⟨?_, ?_, ?_, ?_⟩ <;> decide

theorem witness_InvariantHoldsAtEveryLaunch :
    State.launch (Stream.ofBytes v10) otherTables 7 = some { startOn v10 7 with tables := otherTables } := by decide

/-- A state with a held, validated header and a counted frame meets the invariant, and a step leaves it. -/
theorem witness_StepKeepsTheInvariant :
    ∃ s t : State, s.Inv ∧ s.rv = true ∧ s.vcount = 1 ∧ step s = .next t ∧ t.vcount = 2 := by
  refine ⟨{ startOn p1 4 with h := 0xFFFB9064#32, hdrv := true, rv := true, res := .rValid, vcount := 1,
                              port := [.issue [0x00#8, 0x14#8]] }, _, ?_, rfl, rfl, rfl, by decide⟩
  constructor <;> decide

/-- A held header whose bytes stand in the stream, and one decoded by DEC3 without them. -/
theorem witness_StepKeepsTheHeaderFromTheStream :
    (∃ s : State, s.hdrv = true ∧ s.HeaderFromStream ∧ ∃ t, step s = .next t) ∧
      ∃ s : State, s.hdrv = true ∧ s.stream.byteAt 0 = some 0x00#8 ∧ s.HeaderFromStream := by
  refine ⟨⟨{ startOn t5 4 with h := 0xFFFB9064#32, hdrv := true }, rfl, fun _ => ?_, _, rfl⟩,
    ⟨{ startOn [0x00, 0x00, 0x00] 3 with h := 0xFF000000#32, hdrv := true }, rfl, by decide, fun _ => ?_⟩⟩
  · exact ⟨1, 0xFF#8, 0xFB#8, 0x90#8, 0x64#8, by decide, by decide, by decide, by decide, .inr ⟨by decide, by decide⟩⟩
  · exact ⟨0, 0xFF#8, 0x00#8, 0x00#8, 0x00#8, by decide, by decide, by decide, by decide, .inl rfl⟩

/-- P2 at its start (a header), at its second sync (two bytes of a header) and at its end; a header with three of its four
bytes, and one that ends the stream. -/
theorem witness_FrameRunsOneDriverIteration :
    ((startOn p2 9).cur ≤ (startOn p2 9).stream.len ∧ ∀ i, 9 ≤ i → ¬ SyncIndex (startOn p2 9).stream i) ∧
      (LeastSyncFrom (startOn p2 7).stream (startOn p2 7).cur 7 ∧ (startOn p2 7).stream.len < 7 + 4) ∧
      (LeastSyncFrom (startOn (t5.take 3) 0).stream 0 0 ∧ (startOn (t5.take 3) 0).stream.len < 0 + 4) ∧
      (LeastSyncFrom (startOn t5 0).stream (startOn t5 0).cur 0 ∧ (startOn t5 0).stream.byteAt (0 + 1) = some 0xFB#8 ∧
        (startOn t5 0).stream.byteAt (0 + 2) = some 0x90#8 ∧ (startOn t5 0).stream.byteAt (0 + 3) = some 0x64#8) ∧
      LeastSyncFrom (startOn p2 0).stream 0 3 :=
  ⟨⟨by decide, no_sync_of_noSyncFrom _ _ (by decide)⟩, ⟨leastSync_of_leastSyncAt _ _ _ (by decide), by decide⟩,
    ⟨leastSync_of_leastSyncAt _ _ _ (by decide), by decide⟩,
    ⟨leastSync_of_leastSyncAt _ _ _ (by decide), by decide, by decide, by decide⟩,
    leastSync_of_leastSyncAt _ _ _ (by decide)⟩

/-- An iteration that reports and counts, one that reports only, and one that reports nothing. -/
theorem witness_FrameReportsAdvanceByFour :
    (startOn p1 0).cur ≤ (startOn p1 0).stream.len ∧ (startOn p2 7).cur ≤ (startOn p2 7).stream.len ∧
      view (fun t => (t.vcount, t.reports.length)) (exec .frame (startOn p1 0)) = some (1, 1) ∧
      view (fun t => (t.vcount, t.reports.length)) (exec .frame (startOn p2 0)) = some (0, 1) ∧
      view (fun t => (t.vcount, t.reports.length)) (exec .frame (startOn p2 7)) = some (0, 0) := by decide

/-- X5's end, and the same with a run that has ended. -/
theorem witness_EndOfInputIsAbsorbing :
    (startOn [0x00, 0x00, 0x00] 3).cur = (startOn [0x00, 0x00, 0x00] 3).stream.len ∧
      ({ startOn [0x00, 0x00, 0x00] 3 with runEnd := some .truncated } : State).runEnd ≠ none := by decide

/-- Four bytes left exactly, and three. -/
theorem witness_HeaderRowsDecodeAndValidate :
    (startOn t5 0).cur + 4 ≤ (startOn t5 0).stream.len ∧ (startOn t5 1).stream.len < (startOn t5 1).cur + 4 := by decide

theorem witness_HeaderRowIsDec4ThenValid :
    let s := startOn [0x12, 0x00, 0x08, 0x00, 0x00] 1
    s.stream.byteAt s.cur = some 0x00#8 ∧ s.stream.byteAt (s.cur + 1) = some 0x08#8 ∧
      s.stream.byteAt (s.cur + 2) = some 0x00#8 ∧ s.stream.byteAt (s.cur + 3) = some 0x00#8 ∧
      decode .stream [0x00#8, 0x08#8, 0x00#8, 0x00#8] = .instr (.rsvdVer 0x00080000#32) := by decide

/-- Two bytes left exactly, and one; E0, the least second byte of a sync. -/
theorem witness_SyncRowIsScanCAtTheCursor :
    (startOn [0xFF, 0xE0] 0).cur + 2 ≤ (startOn [0xFF, 0xE0] 0).stream.len ∧
      (startOn [0xFF, 0xE0] 1).stream.len < (startOn [0xFF, 0xE0] 1).cur + 2 ∧
      (startOn [0xFF, 0xE0] 0).stream.byteAt 0 = some 0xFF#8 ∧
      (startOn [0xFF, 0xE0] 0).stream.byteAt (0 + 1) = some 0xE0#8 ∧
      decode .stream [0xFF#8, 0xE0#8] = .instr (.sync2 0#5) := by decide

theorem witness_HeaderIsReadableWhileHeld : (holding 0xFFFB9064#32).hdrv = true ∧ State.reset.hdrv = false := by decide

/-- A lookup that gives a sentinel, and a state with a sentinel in DOUT from which a step runs. -/
theorem witness_SentinelsComeWithValueZero :
    view (fun t => (t.res, t.dout.tag)) (exec .brate (holding 0xFFFB0000#32)) = some (.rLookup, .free) ∧
      (({ startOn v10 0 with dout := ⟨.reserved, 0#32⟩ } : State).dout.tag ≠ .value →
        ({ startOn v10 0 with dout := ⟨.reserved, 0#32⟩ } : State).dout.val = 0#32) ∧
      view (fun t => t.dout.tag) (step { startOn v10 0 with dout := ⟨.reserved, 0#32⟩, port := [.issue [0x00#8]] }) =
        some .reserved := by decide

/-- P3 without its lookups: one iteration with the other pairing reports, and a second ends the run. -/
theorem witness_OtherPairingRunsTheSameLoop :
    let s := startOn [0x12, 0xFF, 0xFD, 0xB0, 0xC0, 0x00] 0
    s.cur ≤ s.stream.len ∧
      view (fun t => (t.cur, t.status, t.reports, t.vcount)) (step { s with port := [.otherFrame] }) =
        some (5, 0x02F6#16, [⟨5, 0xFFFDB0C0#32, .invalidLayerIIBitrateAndMode⟩], 0) ∧
      view (fun t => (t.cur, t.status, t.runEnd)) (Sys2Proof.core.run 2 { s with port := [.otherFrame, .otherFrame] }) =
        some (6, 0x02E2#16, some .endOfInput) := by decide

end Sys2Proof.Tests
end

section
/-! PROOFS. The header's fields as slices of its four bytes (30 R45, R46), and the sync pattern as two whole bytes
(30 R61). -/

namespace Sys2Proof.Machine

/-! ### Slices of a byte -/

/-- A field of a byte is a shift and a mask of the byte's value. -/
theorem toNat_extractLsb'_eq_shift_and_mask {n : Nat} (x : BitVec n) (k w : Nat) :
    (x.extractLsb' k w).toNat = (x.toNat >>> k) &&& (2 ^ w - 1) := by
  rw [BitVec.extractLsb'_toNat, Nat.and_two_pow_sub_one_eq_mod]

/-- A field that reaches the top of its byte needs no mask. -/
theorem toNat_extractLsb'_top {n : Nat} (x : BitVec n) (k w : Nat) (h : n ≤ k + w) :
    (x.extractLsb' k w).toNat = x.toNat >>> k := by
  rw [BitVec.extractLsb'_toNat, Nat.shiftRight_eq_div_pow, Nat.mod_eq_of_lt]
  rw [Nat.div_lt_iff_lt_mul (Nat.two_pow_pos k), ← Nat.pow_add, Nat.add_comm w k]
  exact lt_of_lt_of_le x.isLt (Nat.pow_le_pow_right (by decide) h)

/-! ### Slices of the header word, each inside one byte -/

section
variable (b0 b1 b2 b3 : Byte)

theorem extractLsb'_wordOfBytes_byte0 : (wordOfBytes b0 b1 b2 b3).extractLsb' 24 8 = b0 := by
  rw [wordOfBytes, BitVec.extractLsb'_append_eq_of_le (by decide), BitVec.extractLsb'_append_eq_of_le (by decide),
    BitVec.extractLsb'_append_eq_left]

theorem extractLsb'_wordOfBytes_byte1 (k w : Nat) (h : k + w ≤ 8) :
    (wordOfBytes b0 b1 b2 b3).extractLsb' (16 + k) w = b1.extractLsb' k w := by
  rw [wordOfBytes, BitVec.extractLsb'_append_eq_of_le (by omega), BitVec.extractLsb'_append_eq_of_le (by omega),
    show 16 + k - 8 - 8 = k by omega, BitVec.extractLsb'_append_eq_of_add_le h]

theorem extractLsb'_wordOfBytes_byte2 (k w : Nat) (h : k + w ≤ 8) :
    (wordOfBytes b0 b1 b2 b3).extractLsb' (8 + k) w = b2.extractLsb' k w := by
  rw [wordOfBytes, BitVec.extractLsb'_append_eq_of_le (by omega), show 8 + k - 8 = k by omega,
    BitVec.extractLsb'_append_eq_of_add_le h]

theorem extractLsb'_wordOfBytes_byte3 (k w : Nat) (h : k + w ≤ 8) :
    (wordOfBytes b0 b1 b2 b3).extractLsb' k w = b3.extractLsb' k w := by
  rw [wordOfBytes, BitVec.extractLsb'_append_eq_of_add_le h]

/-! ### The field views of a word of four bytes -/

/-- SYNC is the one field that is split across a byte boundary (30 R47). -/
@[simp] theorem syncBits_wordOfBytes : syncBits (wordOfBytes b0 b1 b2 b3) = b0 ++ b1.extractLsb' 5 3 :=
  calc (wordOfBytes b0 b1 b2 b3).extractLsb' 21 11
      = (wordOfBytes b0 b1 b2 b3).extractLsb' 24 8 ++ (wordOfBytes b0 b1 b2 b3).extractLsb' 21 3 :=
        by rw [BitVec.extractLsb'_append_extractLsb'_eq_extractLsb' (show 24 = 21 + 3 from rfl)]
    _ = b0 ++ b1.extractLsb' 5 3 := by
        rw [extractLsb'_wordOfBytes_byte0, extractLsb'_wordOfBytes_byte1 b0 b1 b2 b3 5 3 (by decide)]

@[simp] theorem verBits_wordOfBytes : verBits (wordOfBytes b0 b1 b2 b3) = b1.extractLsb' 3 2 :=
  extractLsb'_wordOfBytes_byte1 b0 b1 b2 b3 3 2 (by decide)
@[simp] theorem layBits_wordOfBytes : layBits (wordOfBytes b0 b1 b2 b3) = b1.extractLsb' 1 2 :=
  extractLsb'_wordOfBytes_byte1 b0 b1 b2 b3 1 2 (by decide)
@[simp] theorem protBit_wordOfBytes : protBit (wordOfBytes b0 b1 b2 b3) = b1.extractLsb' 0 1 :=
  extractLsb'_wordOfBytes_byte1 b0 b1 b2 b3 0 1 (by decide)
@[simp] theorem briBits_wordOfBytes : briBits (wordOfBytes b0 b1 b2 b3) = b2.extractLsb' 4 4 :=
  extractLsb'_wordOfBytes_byte2 b0 b1 b2 b3 4 4 (by decide)
@[simp] theorem sriBits_wordOfBytes : sriBits (wordOfBytes b0 b1 b2 b3) = b2.extractLsb' 2 2 :=
  extractLsb'_wordOfBytes_byte2 b0 b1 b2 b3 2 2 (by decide)
@[simp] theorem padBit_wordOfBytes : padBit (wordOfBytes b0 b1 b2 b3) = b2.extractLsb' 1 1 :=
  extractLsb'_wordOfBytes_byte2 b0 b1 b2 b3 1 1 (by decide)
@[simp] theorem privBit_wordOfBytes : privBit (wordOfBytes b0 b1 b2 b3) = b2.extractLsb' 0 1 :=
  extractLsb'_wordOfBytes_byte2 b0 b1 b2 b3 0 1 (by decide)
@[simp] theorem modeBits_wordOfBytes : modeBits (wordOfBytes b0 b1 b2 b3) = b3.extractLsb' 6 2 :=
  extractLsb'_wordOfBytes_byte3 b0 b1 b2 b3 6 2 (by decide)
@[simp] theorem mextBits_wordOfBytes : mextBits (wordOfBytes b0 b1 b2 b3) = b3.extractLsb' 4 2 :=
  extractLsb'_wordOfBytes_byte3 b0 b1 b2 b3 4 2 (by decide)
@[simp] theorem copyBit_wordOfBytes : copyBit (wordOfBytes b0 b1 b2 b3) = b3.extractLsb' 3 1 :=
  extractLsb'_wordOfBytes_byte3 b0 b1 b2 b3 3 1 (by decide)
@[simp] theorem origBit_wordOfBytes : origBit (wordOfBytes b0 b1 b2 b3) = b3.extractLsb' 2 1 :=
  extractLsb'_wordOfBytes_byte3 b0 b1 b2 b3 2 1 (by decide)
@[simp] theorem emphBits_wordOfBytes : emphBits (wordOfBytes b0 b1 b2 b3) = b3.extractLsb' 0 2 :=
  extractLsb'_wordOfBytes_byte3 b0 b1 b2 b3 0 2 (by decide)

/-- The shift of 30 R46 for SYNC: the second byte's top three bits follow the whole first byte. -/
theorem toNat_syncBits_wordOfBytes :
    (syncBits (wordOfBytes b0 b1 b2 b3)).toNat = (b0.toNat <<< 3) ||| (b1.toNat >>> 5) := by
  rw [syncBits_wordOfBytes, BitVec.toNat_append, toNat_extractLsb'_top b1 5 3 (by decide)]

/-- The low five bits of the second byte are three whole fields (30 R61). -/
theorem verBits_append_layBits_append_protBit_wordOfBytes :
    verBits (wordOfBytes b0 b1 b2 b3) ++ layBits (wordOfBytes b0 b1 b2 b3) ++ protBit (wordOfBytes b0 b1 b2 b3) =
      b1.extractLsb' 0 5 := by
  rw [verBits_wordOfBytes, layBits_wordOfBytes, protBit_wordOfBytes,
    BitVec.extractLsb'_append_extractLsb'_eq_extractLsb' (show 3 = 1 + 2 from rfl),
    BitVec.extractLsb'_append_extractLsb'_eq_extractLsb' (show 1 = 0 + 1 from rfl)]

end

/-! ### The second byte of the sync pattern -/

theorem topThreeSet_iff (p : Byte) : topThreeSet p = true ↔ p.extractLsb 7 5 = 0b111#3 := beq_iff_eq

/-- The top three bits of a byte are set exactly from E0 on: the shift by five leaves 7 (30 R61). -/
theorem extractLsb_top_eq_ones_iff (p : Byte) : p.extractLsb 7 5 = 0b111#3 ↔ 0xE0 ≤ p.toNat := by
  have hp : p.toNat < 256 := p.isLt
  have hshift : (p.extractLsb 7 5).toNat = p.toNat / 32 := by
    rw [BitVec.extractLsb, toNat_extractLsb'_top p 5 _ (by decide), Nat.shiftRight_eq_div_pow]
  rw [← BitVec.toNat_inj, hshift]
  change p.toNat / 32 = 7 ↔ _
  omega

theorem syncIndex_iff (S : Stream) (i : Nat) :
    SyncIndex S i ↔ S.byteAt i = some 0xFF#8 ∧ ∃ p, S.byteAt (i + 1) = some p ∧ p.extractLsb 7 5 = 0b111#3 := by
  simp only [SyncIndex, topThreeSet_iff]

/-- The bytes that can follow FF in a sync are the 32 from E0 to FF (30 R61). -/
theorem filter_topThreeSet_length :
    ((List.range 256).filter fun n => topThreeSet (BitVec.ofNat 8 n)).length = 32 := by
  decide

/-! ### The obligations -/

/-- Settles O4: a field is a slice of one byte of the header, SYNC of two, and a slice is a shift and a mask. -/
theorem headerFieldsAreShiftedAndMaskedBytes : Obligations.HeaderFieldsAreShiftedAndMaskedBytes := by
  refine ⟨fun b0 b1 b2 b3 => ?_, fun H => ?_, fun b0 b2 b3 => ?_⟩
  · have hH : b0 ++ b1 ++ b2 ++ b3 = wordOfBytes b0 b1 b2 b3 := rfl
    refine ⟨toNat_syncBits_wordOfBytes b0 b1 b2 b3, ?_⟩
    simp [hH, toNat_extractLsb'_eq_shift_and_mask, -BitVec.extractLsb'_toNat]
  · exact ⟨rfl, rfl, rfl, rfl, rfl, rfl, rfl, rfl, rfl, rfl, rfl, rfl, rfl⟩
  · exact ⟨verBits_wordOfBytes b0 0xFB#8 b2 b3, layBits_wordOfBytes b0 0xFB#8 b2 b3, protBit_wordOfBytes b0 0xFB#8 b2 b3⟩

/-- Settles O7: the scan's test of the second byte is a comparison with E0, and what the test leaves of that byte is VER,
LAY and PROT. -/
theorem syncPatternIsTwoWholeBytes : Obligations.SyncPatternIsTwoWholeBytes :=
  ⟨syncIndex_iff, extractLsb_top_eq_ones_iff, filter_topThreeSet_length, fun p b2 b3 =>
    (verBits_append_layBits_append_protBit_wordOfBytes 0xFF#8 p b2 b3).symm⟩

end Sys2Proof.Machine
end

section
/-! PROOFS. The validator as a chain of six steps on the header's table keys and resolved values (43 R103, R105). -/

namespace Sys2Proof.Machine

/-! ### The table keys -/

/-- The reserved version is the one without a key (42 R91). -/
theorem versionKey?_eq_none_iff (v : AudioVersion) : versionKey? v = none ↔ v = .invalid := by
  cases v <;> simp [versionKey?]

/-- The reserved layer is the one without a key (42 R87). -/
theorem layerKey?_eq_none_iff (l : Layer) : layerKey? l = none ↔ l = .invalid := by
  cases l <;> simp [layerKey?]

theorem exists_versionKey {v : AudioVersion} (h : v ≠ .invalid) : ∃ k, versionKey? v = some k :=
  Option.ne_none_iff_exists'.mp (mt (versionKey?_eq_none_iff v).mp h)

theorem exists_layerKey {l : Layer} (h : l ≠ .invalid) : ∃ k, layerKey? l = some k :=
  Option.ne_none_iff_exists'.mp (mt (layerKey?_eq_none_iff l).mp h)

theorem layerKey?_eq_l2_iff (l : Layer) : layerKey? l = some .l2 ↔ l = .layer2 := by
  cases l <;> simp [layerKey?]

/-! ### The resolved values, from the keys -/

section
variable (T : Tables) (h : Word) {v : VersionKey} {l : LayerKey}

theorem bitrateOf_of_keys (hv : versionKey? (fields h).version = some v) (hl : layerKey? (fields h).layer = some l) :
    bitrateOf T h = some (T.bitrate (versionClass v) l (fields h).bri) := by
  simp only [bitrateOf, hv, hl]

theorem sampleRateOf_of_key (hv : versionKey? (fields h).version = some v) :
    sampleRateOf T h = some (T.sampleRate v (fields h).sri) := by
  simp only [sampleRateOf, hv]

/-! ### The validator's steps -/

/-- Step 1 (43 R105). -/
theorem validate_of_reservedVersion (hv : (fields h).version = .invalid) : validate T h = .invalidMpegVersion := by
  simp only [validate, (versionKey?_eq_none_iff _).mpr hv]

/-- Step 2 (43 R105). -/
theorem validate_of_reservedLayer (hv : (fields h).version ≠ .invalid) (hl : (fields h).layer = .invalid) :
    validate T h = .invalidLayer := by
  obtain ⟨v, hv⟩ := exists_versionKey hv
  simp only [validate, hv, (layerKey?_eq_none_iff _).mpr hl]

/-- Steps 3 to 6 (43 R105), which have both table keys (43 R103). -/
theorem validate_of_keys (hv : versionKey? (fields h).version = some v) (hl : layerKey? (fields h).layer = some l) :
    validate T h =
      if T.bitrate (versionClass v) l (fields h).bri = .invalid then .invalidBitrateForVersion
      else if T.sampleRate v (fields h).sri = .reserved then .invalidSampleRateForVersion
      else if layerTwoExcluded l (fields h).mode (T.bitrate (versionClass v) l (fields h).bri) then
        .invalidLayerIIBitrateAndMode
      else if (fields h).emphasis = .invalid then .invalidEmphasis
      else .noReason := by
  simp only [validate, hv, hl]

end

/-- Step 5 bars a number in Layer II alone: for a single channel from 224000 on, for the other modes from 32000 to 56000 and
80000 (43 R108). -/
theorem layerTwoExcluded_iff (l : LayerKey) (m : ChannelMode) (br : Bitrate) :
    layerTwoExcluded l m br = true ↔
      l = .l2 ∧ ∃ n, br = .bps n ∧
        ((m = .single ∧ 224000 ≤ n.toNat) ∨
          (m ≠ .single ∧ ((32000 ≤ n.toNat ∧ n.toNat ≤ 56000) ∨ n.toNat = 80000))) := by
  cases br with
  | bps n => by_cases hm : m = .single <;> simp [layerTwoExcluded, hm]
  | free => simp [layerTwoExcluded]
  | invalid => simp [layerTwoExcluded]

/-! ### The obligation -/

/-- Settles O23: steps 1 and 2 report the words without table keys, and with both keys the chain of steps 3 to 6 is
evaluated in its order. -/
theorem validatorAppliesSixOrderedSteps : Obligations.ValidatorAppliesSixOrderedSteps := by
  refine ⟨⟨rfl, rfl, rfl, rfl, rfl, rfl, rfl⟩, fun T h => ?_⟩
  intro f excluded
  refine ⟨validate_of_reservedVersion T h, validate_of_reservedLayer T h, fun hv hl => ?_⟩
  obtain ⟨v, hv⟩ := exists_versionKey hv
  obtain ⟨l, hl⟩ := exists_layerKey hl
  have hlayer : l = .l2 ↔ f.layer = .layer2 := by rw [← layerKey?_eq_l2_iff, hl, Option.some_inj]
  have hex (br : Bitrate) : layerTwoExcluded l f.mode br = true ↔ excluded br := by
    rw [layerTwoExcluded_iff, hlayer]
  refine ⟨_, _, bitrateOf_of_keys T h hv hl, sampleRateOf_of_key T h hv, ?_⟩
  rw [validate_of_keys T h hv hl]
  refine ⟨fun hbr => ?_, fun hbr hsr => ?_, fun hbr hsr hx => ?_, fun hbr hsr hx he => ?_, fun hbr hsr hx he => ?_⟩
  · rw [if_pos hbr]
  · rw [if_neg hbr, if_pos hsr]
  · rw [if_neg hbr, if_neg hsr, if_pos ((hex _).mpr hx)]
  · rw [if_neg hbr, if_neg hsr, if_neg (mt (hex _).mp hx), if_pos he]
  · rw [if_neg hbr, if_neg hsr, if_neg (mt (hex _).mp hx), if_neg he]

end Sys2Proof.Machine
end

section
/-! PROOFS. The encoder and the decoder are inverse to each other (30 sections 1 and 4 to 8): commands by their codes, the
sync pattern by its two bytes, header rows by the fields of their word. -/

namespace Sys2Proof

/-! ### Header rows -/

/-- An instruction that is a row of the four-byte word `h` (30 R45, R54, 42 R89). -/
def Instr.IsHeaderRow (i : Instr) (h : Word) : Prop := i.source = .stream ∧ encode i = bytesOfWord h

theorem bytesOfWord_injective {g h : Word} (e : bytesOfWord g = bytesOfWord h) : g = h := by
  simp only [bytesOfWord, List.cons.injEq, and_true] at e
  obtain ⟨e3, e2, e1, e0⟩ := e
  rw [← wordOfBytes_bytes_of_word g, e3, e2, e1, e0, wordOfBytes_bytes_of_word]

/-- The header rows are the seven of the opcode table. -/
theorem Instr.isHeaderRow_iff (i : Instr) (h : Word) :
    i.IsHeaderRow h ↔
      i = .hdr32 h ∨ i = .rsvdVer h ∨ i = .rsvdLay h ∨ i = .rsvdBri h ∨ i = .rsvdSri h ∨ i = .rsvdEmph h ∨
        i = .freeBri h := by
  constructor
  · rintro ⟨hs, he⟩
    cases i with
    | scanC | scanN | dec3 | dec4 | valid | brate | srate | reservedCmd7 | frame => cases hs
    | sync2 low => simp [encode, bytesOfWord] at he
    | hdr32 g | rsvdVer g | rsvdLay g | rsvdBri g | rsvdSri g | rsvdEmph g | freeBri g =>
      cases bytesOfWord_injective he
      simp
  · rintro (rfl | rfl | rfl | rfl | rfl | rfl | rfl) <;> exact ⟨rfl, rfl⟩

/-- A well-formed header row is what its word decodes to: the rows tried before it do not fit. -/
theorem decodeHeaderWord_of_wf {i : Instr} {h : Word} (hi : i.IsHeaderRow h) (hw : i.wf = true) :
    decodeHeaderWord h = .instr i := by
  rw [decodeHeaderWord_eq]
  rcases (i.isHeaderRow_iff h).mp hi with rfl | rfl | rfl | rfl | rfl | rfl | rfl <;>
    simp_all [Instr.wf]

/-- What a word decodes to is a well-formed header row of that word. -/
theorem wf_of_decodeHeaderWord {i : Instr} {h : Word} (hd : decodeHeaderWord h = .instr i) :
    i.wf = true ∧ i.IsHeaderRow h := by
  rw [decodeHeaderWord_eq] at hd
  split_ifs at hd <;> cases hd <;> exact ⟨by simp_all [Instr.wf], rfl, rfl⟩

/-! ### The sync pattern -/

theorem append_inj_iff {m n : Nat} (x y : BitVec m) (u v : BitVec n) : x ++ u = y ++ v ↔ x = y ∧ u = v := by
  constructor
  · intro h
    have hl := congrArg (BitVec.extractLsb' n m) h
    have hr := congrArg (BitVec.extractLsb' 0 n) h
    rw [BitVec.extractLsb'_append_eq_left, BitVec.extractLsb'_append_eq_left] at hl
    rw [BitVec.extractLsb'_append_eq_right, BitVec.extractLsb'_append_eq_right] at hr
    exact ⟨hl, hr⟩
  · rintro ⟨rfl, rfl⟩
    rfl

theorem and_top_three_eq_iff : ∀ b : Byte, b &&& 0xE0#8 = 0xE0#8 ↔ b.extractLsb' 5 3 = 0b111#3 := by decide

/-- The pattern FFE0 under its own mask asks for FF and a byte with the top three bits set (30 R61). -/
theorem sync_mask_iff (b0 b1 : Byte) :
    (b0 ++ b1) &&& 0xFFE0#16 = 0xFFE0#16 ↔ b0 = 0xFF#8 ∧ b1.extractLsb' 5 3 = 0b111#3 := by
  have hones : b0 &&& 0xFF#8 = b0 := BitVec.and_allOnes
  rw [show (0xFFE0#16 : BitVec 16) = 0xFF#8 ++ 0xE0#8 from rfl, BitVec.and_append, append_inj_iff, hones,
    and_top_three_eq_iff]

/-- A byte is its top three bits and the five free bits of SYNC2 (30 R61). -/
theorem top_three_append_low_five (b : Byte) : b.extractLsb' 5 3 ++ b.extractLsb' 0 5 = b := by
  rw [BitVec.extractLsb'_append_extractLsb'_eq_extractLsb' (show 5 = 0 + 5 from rfl)]
  exact BitVec.extractLsb'_eq_self

theorem decodeSync_encode (low : BitVec 5) : decodeSync 0xFF#8 (0b111#3 ++ low) = .instr (.sync2 low) := by
  rw [decodeSync, if_pos ((sync_mask_iff _ _).mpr ⟨rfl, BitVec.extractLsb'_append_eq_left⟩),
    BitVec.extractLsb'_append_eq_right]

/-- Two bytes decode to the sync row exactly when they are the sync pattern. -/
theorem decodeSync_eq_instr_iff (b0 b1 : Byte) (i : Instr) :
    decodeSync b0 b1 = .instr i ↔
      (b0 = 0xFF#8 ∧ b1.extractLsb' 5 3 = 0b111#3) ∧ i = .sync2 (b1.extractLsb' 0 5) := by
  rw [← sync_mask_iff, decodeSync]
  split_ifs with h
  · simp [h, eq_comm]
  · simp [h]

/-! ### Commands -/

/-- A command byte that decodes is one of the eight codes (30 R57). -/
theorem encode_of_decodeCommand {b : Byte} {i : Instr} (hd : decodeCommand b = .instr i) :
    i.wf = true ∧ i.source = .command ∧ encode i = [b] := by
  have hb : BitVec.ofNat 8 b.toNat = b := (BitVec.ofNat_toNat 8 b).trans (BitVec.setWidth_eq b)
  unfold decodeCommand at hd
  split at hd <;> cases hd
  all_goals
    rename_i hn
    exact ⟨rfl, rfl, by rw [← hb, hn]; rfl⟩

theorem encode_of_decodeFrame {b0 b1 : Byte} {i : Instr} (hd : decodeFrame b0 b1 = .instr i) :
    i.wf = true ∧ i.source = .command ∧ encode i = [b0, b1] := by
  unfold decodeFrame at hd
  split_ifs at hd with h
  cases hd
  rw [show (0x0014#16 : BitVec 16) = 0x00#8 ++ 0x14#8 from rfl, append_inj_iff] at h
  obtain ⟨rfl, rfl⟩ := h
  exact ⟨rfl, rfl, rfl⟩

/-! ### The obligations -/

/-- Settles O1: a command's code and FRAME's string are read back literally, the sync row by its mask, and a header row by
its fields. -/
theorem encodeThenDecodeReturnsInstruction : Obligations.EncodeThenDecodeReturnsInstruction := by
  intro i hw
  have hrow {h : Word} (hi : i.IsHeaderRow h) : decode i.source (encode i) = .instr i := by
    rw [hi.1, hi.2, decodeStream_bytesOfWord, decodeHeaderWord_of_wf hi hw]
  cases i with
  | scanC | scanN | dec3 | dec4 | valid | brate | srate | reservedCmd7 | frame => rfl
  | sync2 low => exact decodeSync_encode low
  | hdr32 h | rsvdVer h | rsvdLay h | rsvdBri h | rsvdSri h | rsvdEmph h | freeBri h => exact hrow ⟨rfl, rfl⟩

/-- Settles O2, by the place and the number of the bytes read. -/
theorem decodedInstructionReencodesToItsBytes : Obligations.DecodedInstructionReencodesToItsBytes := by
  intro src bs i hd
  match src, bs with
  | .command, [b] =>
    exact encode_of_decodeCommand hd
  | .command, [b0, b1] =>
    exact encode_of_decodeFrame hd
  | .stream, [b0, b1] =>
    obtain ⟨⟨rfl, htop⟩, rfl⟩ := (decodeSync_eq_instr_iff b0 b1 i).mp hd
    refine ⟨rfl, rfl, ?_⟩
    rw [encode, ← htop, top_three_append_low_five]
  | .stream, [b0, b1, b2, b3] =>
    obtain ⟨hw, hs, he⟩ := wf_of_decodeHeaderWord hd
    exact ⟨hw, hs, by rw [he, bytesOfWord_word_of_bytes]⟩
  | .command, [] | .command, _ :: _ :: _ :: _ | .stream, [] | .stream, [_] | .stream, [_, _, _]
  | .stream, _ :: _ :: _ :: _ :: _ :: _ => cases hd

/-- Settles O3: the words are decoded literally. -/
theorem sampleWordsDecode : Obligations.SampleWordsDecode := by
  unfold Obligations.SampleWordsDecode
  decide

end Sys2Proof
end

section
/-! PROOFS. The fields of the header word as a partition of its bits (10 R14), their typed values (41 R82), the readable
view of `H` (10 R15) and the status word (10 R19). -/

namespace Sys2Proof.Machine

/-- Settles O5: a field joined to the one below it is the longer slice, thirteen times over. -/
theorem headerFieldsJoinToTheWord : Obligations.HeaderFieldsJoinToTheWord := by
  intro H
  unfold syncBits verBits layBits protBit briBits sriBits padBit privBit modeBits mextBits copyBit origBit emphBits
  simp only [BitVec.extractLsb'_append_extractLsb'_eq_extractLsb']
  exact BitVec.extractLsb'_eq_self

/-- Settles O6: the members of `Fields(H)` are the views under the code-point tables. -/
theorem typedFieldsFollowTheCodePoints : Obligations.TypedFieldsFollowTheCodePoints := by
  refine ⟨fun H => ⟨rfl, rfl, rfl, rfl, rfl, rfl, rfl, rfl, ?_⟩,
    rfl, rfl, rfl, rfl, rfl, rfl, rfl, rfl, rfl, rfl, rfl, rfl, rfl, rfl, rfl, rfl⟩
  exact ⟨beq_iff_eq, beq_iff_eq, beq_iff_eq, beq_iff_eq, beq_iff_eq⟩

theorem getLsbD_append_of_le {m n k : Nat} (x : BitVec m) (y : BitVec n) (h : n ≤ k) :
    (x ++ y).getLsbD k = x.getLsbD (k - n) := by
  rw [BitVec.getLsbD_append, if_neg (Nat.not_lt.mpr h)]

theorem getLsbD_append_ofBool {m : Nat} (x : BitVec m) (b : Bool) : (x ++ BitVec.ofBool b).getLsbD 0 = b := by
  rw [BitVec.getLsbD_append, if_pos (by decide)]
  cases b <;> rfl

/-- Settles O36: the status word is the fields joined, so a slice at a field's place is the field. -/
theorem statusWordLayout : Obligations.StatusWordLayout := by
  refine ⟨fun s => ?_, rfl, rfl, rfl, rfl, rfl, rfl, rfl, rfl, rfl, rfl, rfl, rfl, rfl, rfl, rfl⟩
  rw [State.status]
  refine ⟨BitVec.extractLsb'_append_eq_right, ?_, ?_, ?_, ?_, ?_⟩
  · rw [getLsbD_append_of_le _ _ (by decide), getLsbD_append_ofBool]
  · iterate 2 rw [getLsbD_append_of_le _ _ (by decide)]
    exact getLsbD_append_ofBool _ _
  · iterate 3 rw [getLsbD_append_of_le _ _ (by decide)]
    exact getLsbD_append_ofBool _ _
  · rw [BitVec.extractLsb]
    iterate 4 rw [BitVec.extractLsb'_append_eq_of_le (by decide)]
    exact BitVec.extractLsb'_append_eq_right
  · rw [BitVec.extractLsb]
    iterate 5 rw [BitVec.extractLsb'_append_eq_of_le (by decide)]
    exact BitVec.extractLsb'_eq_self

/-- Settles O52, by the two values of `HDRV`. -/
theorem headerIsReadableWhileHeld : Obligations.HeaderIsReadableWhileHeld :=
  fun _ => ⟨fun h => if_pos h, fun h => by simp [State.readH, h]⟩

end Sys2Proof.Machine
end

section
/-! PROOFS. One step by the host's next request (00 section 4): the instruction its bytes decode to, or the other ways a
step ends (log entries 3, 17 and 19). -/

namespace Sys2Proof.Machine

/-! ### The bytes at the cursor -/

theorem Stream.bytesAt_two_of_byteAt {S : Stream} {a : Nat} {b0 b1 : Byte} (h0 : S.byteAt a = some b0)
    (h1 : S.byteAt (a + 1) = some b1) : S.bytesAt a 2 = some [b0, b1] := by
  obtain ⟨c0, c1, hb, e0, e1⟩ := Stream.bytesAt_two S a (Stream.lt_of_byteAt _ _ _ h1)
  rw [hb, Option.some.inj (h0.symm.trans e0), Option.some.inj (h1.symm.trans e1)]

theorem Stream.bytesAt_four_of_byteAt {S : Stream} {a : Nat} {b0 b1 b2 b3 : Byte} (h0 : S.byteAt a = some b0)
    (h1 : S.byteAt (a + 1) = some b1) (h2 : S.byteAt (a + 2) = some b2) (h3 : S.byteAt (a + 3) = some b3) :
    S.bytesAt a 4 = some [b0, b1, b2, b3] := by
  obtain ⟨c0, c1, c2, c3, hb, e0, e1, e2, e3⟩ := Stream.bytesAt_four S a (Stream.lt_of_byteAt _ _ _ h3)
  rw [hb, Option.some.inj (h0.symm.trans e0), Option.some.inj (h1.symm.trans e1),
    Option.some.inj (h2.symm.trans e2), Option.some.inj (h3.symm.trans e3)]

/-! ### What the next request makes of a step -/

section
variable {s : State} {rest : List Request}

theorem step_of_idle (hp : s.port = []) : step s = .next s := by
  simp [step, fetch, hp]

theorem step_of_otherFrame (hp : s.port = .otherFrame :: rest) : step s = runOtherFrame (s.setPort rest) := by
  simp [step, fetch, hp]

theorem step_of_ranOff_sync (hp : s.port = .syncAtCursor :: rest) (hl : s.stream.len < s.cur + 2) :
    step s = .next (s.setPort rest).scanMiss := by
  simp [step, fetch, hp, (Stream.bytesAt_none_iff _ _ _).mpr hl]

theorem step_of_ranOff_header (hp : s.port = .headerAtCursor :: rest) (hl : s.stream.len < s.cur + 4) :
    step s = .next (s.setPort rest).incomplete := by
  simp [step, fetch, hp, (Stream.bytesAt_none_iff _ _ _).mpr hl]

variable {src : Source} {bs : List Byte}

theorem step_of_instr {i : Instr} (hf : fetch s = .bytes src bs rest) (hd : decode src bs = .instr i) :
    step s = exec i (s.setPort rest) := by
  simp only [step, hf, hd]

theorem step_of_rejected {r : Reject} (hf : fetch s = .bytes src bs rest) (hd : decode src bs = .rejected r) :
    step s = .refused (.undecodable r) := by
  simp only [step, hf, hd]

theorem fetch_of_issue (hp : s.port = .issue bs :: rest) : fetch s = .bytes .command bs rest := by
  simp only [fetch, hp]

variable {b0 b1 b2 b3 : Byte}

theorem fetch_of_syncAtCursor (hp : s.port = .syncAtCursor :: rest) (h0 : s.stream.byteAt s.cur = some b0)
    (h1 : s.stream.byteAt (s.cur + 1) = some b1) : fetch s = .bytes .stream [b0, b1] rest := by
  simp only [fetch, hp, Stream.bytesAt_two_of_byteAt h0 h1]

theorem fetch_of_headerAtCursor (hp : s.port = .headerAtCursor :: rest) (h0 : s.stream.byteAt s.cur = some b0)
    (h1 : s.stream.byteAt (s.cur + 1) = some b1) (h2 : s.stream.byteAt (s.cur + 2) = some b2)
    (h3 : s.stream.byteAt (s.cur + 3) = some b3) : fetch s = .bytes .stream [b0, b1, b2, b3] rest := by
  simp only [fetch, hp, Stream.bytesAt_four_of_byteAt h0 h1 h2 h3]

end

/-! ### Stream bytes that are no row -/

theorem decodeSync_rejected {b0 b1 : Byte} (h : ¬ (b0 = 0xFF#8 ∧ b1.extractLsb 7 5 = 0b111#3)) :
    decode .stream [b0, b1] = .rejected .notSync :=
  if_neg (mt (sync_mask_iff b0 b1).mp h)

theorem decodeHeaderWord_rejected {h : Word} (hs : syncBits h ≠ 0x7FF#11) (hv : verBits h ≠ 0b01#2)
    (hl : layBits h ≠ 0b00#2) (hb : briBits h ≠ 0b1111#4) (hf : briBits h ≠ 0b0000#4) (hr : sriBits h ≠ 0b11#2)
    (he : emphBits h ≠ 0b10#2) : decodeHeaderWord h = .rejected .noHeaderRow := by
  have h1 : carriesSync h = false := beq_eq_false_iff_ne.mpr hs
  have h2 : hasReservedVersion h = false := beq_eq_false_iff_ne.mpr hv
  have h3 : hasInvalidBitrate h = false := beq_eq_false_iff_ne.mpr hb
  have h4 : hasReservedSampleRate h = false := beq_eq_false_iff_ne.mpr hr
  have h5 : hasReservedEmphasis h = false := beq_eq_false_iff_ne.mpr he
  have h6 : hasReservedLayer h = false := beq_eq_false_iff_ne.mpr hl
  have h7 : hasFreeBitrate h = false := beq_eq_false_iff_ne.mpr hf
  simp [decodeHeaderWord_eq, h1, h2, h3, h4, h5, h6, h7]

/-! ### The obligations -/

/-- Settles O8, by the request the bytes come from. -/
theorem stepRunsTheDecodedInstruction : Obligations.StepRunsTheDecodedInstruction := by
  intro s rest i
  refine ⟨fun bs hp hd => ?_, fun b0 b1 hp h0 h1 hd => ?_, fun b0 b1 b2 b3 hp h0 h1 h2 h3 hd => ?_⟩
  · exact step_of_instr (fetch_of_issue hp) hd
  · exact step_of_instr (fetch_of_syncAtCursor hp h0 h1) hd
  · exact step_of_instr (fetch_of_headerAtCursor hp h0 h1 h2 h3) hd

/-- Settles O9, by the request and by the bytes left. -/
theorem stepWithoutAnInstruction : Obligations.StepWithoutAnInstruction := by
  intro s rest
  refine ⟨step_of_idle, fun bs r hp hd => ?_, fun b0 b1 hp h0 h1 hn => ?_, fun b0 b1 b2 b3 hp h0 h1 h2 h3 => ?_,
    step_of_ranOff_sync, step_of_ranOff_header⟩
  · exact step_of_rejected (fetch_of_issue hp) hd
  · exact step_of_rejected (fetch_of_syncAtCursor hp h0 h1) (decodeSync_rejected hn)
  · intro h hs hv hl hb hf hr he
    exact step_of_rejected (fetch_of_headerAtCursor hp h0 h1 h2 h3) (decodeHeaderWord_rejected hs hv hl hb hf hr he)

end Sys2Proof.Machine
end

section
/-! PROOFS. The scan family against the least sync index (40 R67 to R73, 70 R149). -/

namespace Sys2Proof.Machine

/-! ### The scan by the place of its cursor -/

/-- A scan reads at the cursor first, where `MemRead` has no value past `LEN` (20 R31; log entry 15). -/
theorem scan_pastEnd (k : Nat) (s : State) (h : s.stream.len < s.cur) : scan k s = .fault .readPastEnd := by
  have hb : s.stream.byteAt s.cur = none := (Stream.byteAt_eq_none_iff _ _).mpr h.le
  rw [scan, scanFrom, if_neg h.ne']
  simp only [hb]

/-- What a scan that gives a next state has done, from any state (40 R69). -/
theorem scan_eq_next {k : Nat} {s t : State} (h : scan k s = .next t) :
    s.cur ≤ s.stream.len ∧
      ((∃ i, LeastSyncFrom s.stream s.cur i ∧ t = s.scanHit (i + k)) ∨
        ((∀ i, s.cur ≤ i → ¬ SyncIndex s.stream i) ∧ t = s.scanMiss)) := by
  rcases Nat.lt_or_ge s.stream.len s.cur with hlt | hle
  · cases (scan_pastEnd k s hlt).symm.trans h
  · refine ⟨hle, ?_⟩
    rcases scan_cases k s hle with ⟨i, hi, he⟩ | ⟨hno, he⟩ <;> cases he.symm.trans h
    · exact .inl ⟨i, hi, rfl⟩
    · exact .inr ⟨hno, rfl⟩

theorem LeastSyncFrom.self {S : Stream} {i : Nat} (h : SyncIndex S i) : LeastSyncFrom S i i :=
  ⟨le_refl i, h, fun _ _ _ => by omega⟩

/-! ### The obligations -/

/-- Settles O10: the scan loop finds the least sync index or none. -/
theorem scanCStopsAfterTheLeastSync : Obligations.ScanCStopsAfterTheLeastSync :=
  fun s h => ⟨scan_of_least 1 s h, scan_of_none 1 s h⟩

/-- Settles O11: the scan loop finds the least sync index or none. -/
theorem scanNStopsOnTheLeastSync : Obligations.ScanNStopsOnTheLeastSync :=
  fun s h => ⟨scan_of_least 0 s h, scan_of_none 0 s h⟩

/-- Settles O12. -/
theorem scanPastTheEndStops : Obligations.ScanPastTheEndStops :=
  fun s h => ⟨scan_pastEnd 1 s h, scan_pastEnd 0 s h⟩

/-- Settles O13, by whether a sync stands at or after the cursor. -/
theorem scanVariantsDifferByOneOnAMatch : Obligations.ScanVariantsDifferByOneOnAMatch := by
  intro s h
  rcases scan_cases 1 s h with ⟨i, hi, he⟩ | ⟨hno, he⟩
  · exact ⟨_, _, he, scan_of_least 0 s h i hi, rfl, rfl, .inl ⟨rfl, rfl, rfl, rfl⟩⟩
  · exact ⟨_, _, he, scan_of_none 0 s h hno, rfl, rfl, .inr ⟨rfl, rfl, rfl, rfl⟩⟩

/-- Settles O14: the top three bits are set from E0 on, so no index of such a stream is a sync index. -/
theorem noSyncByteYieldsNoMatch : Obligations.NoSyncByteYieldsNoMatch := by
  intro s h hlow
  have hno (i : Nat) (_ : s.cur ≤ i) : ¬ SyncIndex s.stream i := by
    rintro ⟨hff, p, hp, htop⟩
    have hge := (extractLsb_top_eq_ones_iff p).mp ((topThreeSet_iff p).mp htop)
    exact absurd (hlow i p hff hp) (Nat.not_lt.mpr hge)
  exact ⟨scan_of_none 1 s h hno, scan_of_none 0 s h hno⟩

/-- Settles O15: the only sync index is the least one, and none is left one past it. -/
theorem singleSyncIsFoundOnce : Obligations.SingleSyncIsFoundOnce := by
  intro s i h hi hs huniq
  have hleast : LeastSyncFrom s.stream s.cur i :=
    ⟨hi, hs, fun j hj hlt hsj => hlt.ne (huniq j hj hsj)⟩
  have hno (j : Nat) (hj : i + 1 ≤ j) : ¬ SyncIndex s.stream j := fun hsj => by
    have := huniq j (by omega) hsj
    omega
  exact ⟨_, scan_of_least 1 s h i hleast, rfl, rfl, scan_of_none 1 (s.scanHit (i + 1)) hleast.lt_len.le hno⟩

/-- Settles O16: the index a SCAN.N stands on is its own least sync index, and SCAN.C goes one past it. -/
theorem repeatedScanNStandsStill : Obligations.RepeatedScanNStandsStill := by
  refine fun s t => ⟨fun h hm => ?_, fun h hm => ?_⟩
  · obtain ⟨-, ⟨i, hi, rfl⟩ | ⟨-, rfl⟩⟩ := scan_eq_next h
    · exact scan_of_least 0 (s.scanHit i) (Nat.le_of_succ_le hi.lt_len.le) i (.self hi.2.1)
    · cases hm
  · obtain ⟨-, ⟨i, hi, rfl⟩ | ⟨-, rfl⟩⟩ := scan_eq_next h
    · exact Nat.lt_succ_of_le hi.1
    · cases hm

end Sys2Proof.Machine
end

section
/-! PROOFS. The decode family (41 R76 to R81), and a decode after a scan: the two pairings read one header (41 R80), the
mixed one a shifted header (70 R148). -/

namespace Sys2Proof.Machine

/-! ### A decode by the bytes left -/

section
variable {s : State} {b0 b1 b2 b3 : Byte}

theorem decodeThree_of_short (h : s.stream.len < s.cur + 3) : decodeThree s = .next s.incomplete :=
  if_pos (by omega)

theorem decodeFour_of_short (h : s.stream.len < s.cur + 4) : decodeFour s = .next s.incomplete :=
  if_pos (by omega)

theorem decodeThree_of_bytes (h1 : s.stream.byteAt s.cur = some b1) (h2 : s.stream.byteAt (s.cur + 1) = some b2)
    (h3 : s.stream.byteAt (s.cur + 2) = some b3) :
    decodeThree s = .next (s.loadHeader 3 (wordOfBytes 0xFF#8 b1 b2 b3)) := by
  have hl := Stream.lt_of_byteAt _ _ _ h3
  rw [decodeThree, if_neg (by omega)]
  simp only [decodeTail, h1, h2, h3]

theorem decodeFour_of_bytes (h0 : s.stream.byteAt s.cur = some b0) (h1 : s.stream.byteAt (s.cur + 1) = some b1)
    (h2 : s.stream.byteAt (s.cur + 2) = some b2) (h3 : s.stream.byteAt (s.cur + 3) = some b3) :
    decodeFour s = .next (s.loadHeader 4 (wordOfBytes b0 b1 b2 b3)) := by
  have hl := Stream.lt_of_byteAt _ _ _ h3
  rw [decodeFour, if_neg (by omega)]
  simp only [decodeTail, Nat.add_assoc, h0, h1, h2, h3]

end

/-- Settles O17. -/
theorem dec3DecodesThreeBytesOrIsIncomplete : Obligations.Dec3DecodesThreeBytesOrIsIncomplete :=
  fun _ => ⟨fun _ _ _ => decodeThree_of_bytes, decodeThree_of_short⟩

/-- Settles O18. -/
theorem dec4DecodesFourBytesOrIsIncomplete : Obligations.Dec4DecodesFourBytesOrIsIncomplete :=
  fun _ => ⟨fun _ _ _ _ => decodeFour_of_bytes, decodeFour_of_short⟩

/-! ### A decode after a scan that matched at `i` -/

/-- The header that starts at `i` is truncated, or its last three bytes exist. -/
theorem truncated_or_bytes (S : Stream) (i : Nat) :
    S.len < i + 4 ∨
      ∃ b1 b2 b3, S.byteAt (i + 1) = some b1 ∧ S.byteAt (i + 2) = some b2 ∧ S.byteAt (i + 3) = some b3 := by
  rcases Nat.lt_or_ge S.len (i + 4) with h | h
  · exact .inl h
  · obtain ⟨b1, h1⟩ := Stream.byteAt_eq_some_of_lt S (i + 1) (by omega)
    obtain ⟨b2, h2⟩ := Stream.byteAt_eq_some_of_lt S (i + 2) (by omega)
    obtain ⟨b3, h3⟩ := Stream.byteAt_eq_some_of_lt S (i + 3) (by omega)
    exact .inr ⟨b1, b2, b3, h1, h2, h3⟩

/-- The state both pairings leave when the header at `i` is complete. -/
def State.headerAt (s : State) (i : Nat) (h : Word) : State := (s.scanHit i).loadHeader 4 h

section
variable {s : State} {i : Nat} {b1 b2 b3 : Byte}

theorem decodeThree_scanHit_of_short (h : s.stream.len < i + 4) :
    decodeThree (s.scanHit (i + 1)) = .next (s.scanHit i).incomplete :=
  decodeThree_of_short (s := s.scanHit (i + 1)) h

theorem decodeFour_scanHit_of_short (h : s.stream.len < i + 4) :
    decodeFour (s.scanHit i) = .next (s.scanHit i).incomplete :=
  decodeFour_of_short (s := s.scanHit i) h

theorem decodeThree_scanHit_of_bytes (h1 : s.stream.byteAt (i + 1) = some b1) (h2 : s.stream.byteAt (i + 2) = some b2)
    (h3 : s.stream.byteAt (i + 3) = some b3) :
    decodeThree (s.scanHit (i + 1)) = .next (s.headerAt i (wordOfBytes 0xFF#8 b1 b2 b3)) :=
  decodeThree_of_bytes (s := s.scanHit (i + 1)) h1 h2 h3

theorem decodeFour_scanHit_of_bytes (h0 : s.stream.byteAt i = some 0xFF#8) (h1 : s.stream.byteAt (i + 1) = some b1)
    (h2 : s.stream.byteAt (i + 2) = some b2) (h3 : s.stream.byteAt (i + 3) = some b3) :
    decodeFour (s.scanHit i) = .next (s.headerAt i (wordOfBytes 0xFF#8 b1 b2 b3)) :=
  decodeFour_of_bytes (s := s.scanHit i) h0 h1 h2 h3

end

/-- The byte after FF in a sync has a bitrate index of at least 14 when it is taken for the third byte (70 R148). -/
theorem le_top_four_of_topThreeSet {p : Byte} (h : topThreeSet p = true) : 14 ≤ (p.extractLsb' 4 4).toNat := by
  have hge := (extractLsb_top_eq_ones_iff p).mp ((topThreeSet_iff p).mp h)
  rw [toNat_extractLsb'_top p 4 4 (by decide), Nat.shiftRight_eq_div_pow]
  omega

/-! ### The obligations -/

/-- Settles O19, by whether a sync is found and whether its header is truncated. -/
theorem scanAndDecodePairingsAgree : Obligations.ScanAndDecodePairingsAgree := by
  intro s h
  rcases scan_cases 1 s h with ⟨i, hi, he⟩ | ⟨hno, he⟩
  · refine ⟨_, _, he, scan_of_least 0 s h i hi, .inr ⟨rfl, rfl, ?_⟩⟩
    rcases truncated_or_bytes s.stream i with hl | ⟨b1, b2, b3, h1, h2, h3⟩
    · exact ⟨_, decodeThree_scanHit_of_short hl, decodeFour_scanHit_of_short hl, .inr rfl⟩
    · exact ⟨_, decodeThree_scanHit_of_bytes h1 h2 h3, decodeFour_scanHit_of_bytes hi.2.1.1 h1 h2 h3, .inl rfl⟩
  · exact ⟨_, _, he, scan_of_none 0 s h hno, .inl ⟨rfl, rfl⟩⟩

/-- Settles O20: a sync has two bytes, and the header is complete from four bytes on. -/
theorem truncatedHeaderAfterAMatch : Obligations.TruncatedHeaderAfterAMatch := by
  intro s i h hi
  have htwo := hi.lt_len
  rcases truncated_or_bytes s.stream i with hl | ⟨b1, b2, b3, h1, h2, h3⟩
  · refine ⟨_, _, scan_of_least 1 s h i hi, decodeThree_scanHit_of_short hl, by omega, ?_⟩
    exact iff_of_true rfl (by omega)
  · have hfour := Stream.lt_of_byteAt _ _ _ h3
    refine ⟨_, _, scan_of_least 1 s h i hi, decodeThree_scanHit_of_bytes h1 h2 h3, by omega, ?_⟩
    exact iff_of_false (by simp [State.headerAt]) (by omega)

/-- Settles O21: DEC3 supplies FF and reads FF and the sync's second byte after it. -/
theorem mixedPairingShiftsTheHeader : Obligations.MixedPairingShiftsTheHeader := by
  intro s i b1 b2 h hi h1 h2
  obtain ⟨hff, p, hp, htop⟩ := hi.2.1
  cases h1.symm.trans hp
  refine ⟨_, _, scan_of_least 0 s h i hi, decodeThree_of_bytes (s := s.scanHit i) hff h1 h2, rfl, rfl, rfl, ?_, ?_, ?_, ?_⟩
  · exact verBits_wordOfBytes _ _ _ _
  · exact layBits_wordOfBytes _ _ _ _
  · exact protBit_wordOfBytes _ _ _ _
  · rw [State.loadHeader_h, briBits_wordOfBytes]
    exact le_top_four_of_topThreeSet htop

end Sys2Proof.Machine
end

section
/-! PROOFS. One iteration of the driver loop in closed form, for both pairings, and any number of them (44 R116 to R124). -/

namespace Sys2Proof.Machine

/-! ### How an iteration ends -/

section
variable (s : State)

/-- No sync: the run ends as end of input (44 R116). -/
def State.frameEnd : State := s.scanMiss.stopRun .endOfInput

/-- A truncated header at `i`: the run ends as truncated (44 R116). -/
def State.frameTruncated (i : Nat) : State := (s.scanHit i).incomplete.stopRun .truncated

/-- The header `h` at `i`: decoded, validated, reported and counted (44 R116). -/
def State.frameReport (i : Nat) (h : Word) : State :=
  ((s.headerAt i h).takeOffset.setVerdict (validate s.tables h)).makeReport

theorem State.stopRun_eq (e : RunEnd) : s.stopRun e = { s with runEnd := s.runEnd.or (some e) } := by
  unfold State.stopRun
  cases s.runEnd <;> rfl

theorem State.stopRun_of_ended (e : RunEnd) (h : s.runEnd ≠ none) : s.stopRun e = s := by
  obtain ⟨e', he⟩ := Option.ne_none_iff_exists'.mp h
  rw [State.stopRun_eq, he, Option.some_or, ← he]

theorem State.stopRun_runEnd_ne_none (e : RunEnd) : (s.stopRun e).runEnd ≠ none := by
  rw [State.stopRun_eq]
  cases s.runEnd <;> simp

theorem State.frameReport_eq (i : Nat) (h : Word) :
    s.frameReport i h =
      { s with cur := i + 4, h := h, matched := true, hdrv := true, rv := true, reason := validate s.tables h,
               res := resultOfReason (validate s.tables h), offset := i + 4,
               reports := s.reports ++ [⟨i + 4, h, validate s.tables h⟩],
               vcount := if validate s.tables h = .noReason then s.vcount + 1 else s.vcount } := by
  simp only [← resultOfReason_eq_rValid_iff]
  rfl

end

/-! ### The two pairings, by what stands at the least sync index -/

section
variable {s : State} {i : Nat} {b1 b2 b3 : Byte}

theorem execFrame_of_none (h : s.cur ≤ s.stream.len) (hno : ∀ i, s.cur ≤ i → ¬ SyncIndex s.stream i) :
    execFrame s = .next s.frameEnd :=
  driverIteration_of_scanMiss _ _ s (scan_of_none 1 s h hno)

theorem runOtherFrame_of_none (h : s.cur ≤ s.stream.len) (hno : ∀ i, s.cur ≤ i → ¬ SyncIndex s.stream i) :
    runOtherFrame s = .next s.frameEnd :=
  driverIteration_of_scanMiss _ _ s (scan_of_none 0 s h hno)

theorem execFrame_of_truncated (h : s.cur ≤ s.stream.len) (hi : LeastSyncFrom s.stream s.cur i)
    (hl : s.stream.len < i + 4) : execFrame s = .next (s.frameTruncated i) :=
  driverIteration_of_incomplete _ _ s (i + 1) (scan_of_least 1 s h i hi) (decodeThree_scanHit_of_short hl)

theorem runOtherFrame_of_truncated (h : s.cur ≤ s.stream.len) (hi : LeastSyncFrom s.stream s.cur i)
    (hl : s.stream.len < i + 4) : runOtherFrame s = .next (s.frameTruncated i) :=
  driverIteration_of_incomplete _ _ s i (scan_of_least 0 s h i hi) (decodeFour_scanHit_of_short hl)

theorem execFrame_of_header (h : s.cur ≤ s.stream.len) (hi : LeastSyncFrom s.stream s.cur i)
    (h1 : s.stream.byteAt (i + 1) = some b1) (h2 : s.stream.byteAt (i + 2) = some b2)
    (h3 : s.stream.byteAt (i + 3) = some b3) :
    execFrame s = .next (s.frameReport i (wordOfBytes 0xFF#8 b1 b2 b3)) :=
  driverIteration_of_header _ _ s (i + 1) 3 _ (scan_of_least 1 s h i hi) (decodeThree_scanHit_of_bytes h1 h2 h3)

theorem runOtherFrame_of_header (h : s.cur ≤ s.stream.len) (hi : LeastSyncFrom s.stream s.cur i)
    (h1 : s.stream.byteAt (i + 1) = some b1) (h2 : s.stream.byteAt (i + 2) = some b2)
    (h3 : s.stream.byteAt (i + 3) = some b3) :
    runOtherFrame s = .next (s.frameReport i (wordOfBytes 0xFF#8 b1 b2 b3)) :=
  driverIteration_of_header _ _ s i 4 _ (scan_of_least 0 s h i hi) (decodeFour_scanHit_of_bytes hi.2.1.1 h1 h2 h3)

end

/-- What stands ahead of a cursor within the stream: no sync, a truncated header, or a complete one. -/
theorem sync_ahead_cases (S : Stream) (c : Nat) (h : c ≤ S.len) :
    (∀ i, c ≤ i → ¬ SyncIndex S i) ∨
      ∃ i, LeastSyncFrom S c i ∧
        (S.len < i + 4 ∨
          ∃ b1 b2 b3, S.byteAt (i + 1) = some b1 ∧ S.byteAt (i + 2) = some b2 ∧ S.byteAt (i + 3) = some b3) := by
  rcases scanFrom_spec S (S.len - c + 1) c h (by omega) with ⟨i, -, hi⟩ | ⟨-, hno⟩
  · exact .inr ⟨i, hi, truncated_or_bytes S i⟩
  · exact .inl hno

theorem execFrame_pastEnd (s : State) (h : s.stream.len < s.cur) : execFrame s = .fault .readPastEnd := by
  rw [execFrame, driverIteration, execScanC, scan_pastEnd 1 s h, andThen_fault]

theorem runOtherFrame_pastEnd (s : State) (h : s.stream.len < s.cur) : runOtherFrame s = .fault .readPastEnd := by
  rw [runOtherFrame, driverIteration, execScanN, scan_pastEnd 0 s h, andThen_fault]

/-- One iteration with the other pairing answers what FRAME answers, from every state (44 R124). -/
theorem runOtherFrame_eq_execFrame (s : State) : runOtherFrame s = execFrame s := by
  rcases Nat.lt_or_ge s.stream.len s.cur with hlt | h
  · rw [runOtherFrame_pastEnd s hlt, execFrame_pastEnd s hlt]
  · rcases sync_ahead_cases s.stream s.cur h with hno | ⟨i, hi, hl | ⟨b1, b2, b3, h1, h2, h3⟩⟩
    · rw [runOtherFrame_of_none h hno, execFrame_of_none h hno]
    · rw [runOtherFrame_of_truncated h hi hl, execFrame_of_truncated h hi hl]
    · rw [runOtherFrame_of_header h hi h1 h2 h3, execFrame_of_header h hi h1 h2 h3]

/-- FRAME does not look at the host's further requests, and leaves them. -/
theorem execFrame_setPort (s : State) (h : s.cur ≤ s.stream.len) :
    ∃ t : State, t.cur ≤ t.stream.len ∧ ∀ p, execFrame (s.setPort p) = .next (t.setPort p) := by
  rcases sync_ahead_cases s.stream s.cur h with hno | ⟨i, hi, hl | ⟨b1, b2, b3, h1, h2, h3⟩⟩
  · exact ⟨s.frameEnd, le_refl _, fun p => execFrame_of_none (s := s.setPort p) h hno⟩
  · exact ⟨s.frameTruncated i, le_refl _, fun p => execFrame_of_truncated (s := s.setPort p) h hi hl⟩
  · have hfour := Stream.lt_of_byteAt _ _ _ h3
    exact ⟨s.frameReport i _, hfour, fun p => execFrame_of_header (s := s.setPort p) h hi h1 h2 h3⟩

/-! ### Runs of the loop -/

theorem step_otherFrame (s : State) (rest : List Request) :
    step (s.setPort (.otherFrame :: rest)) = execFrame (s.setPort rest) :=
  (step_of_otherFrame rfl).trans (runOtherFrame_eq_execFrame _)

theorem step_issueFrame (s : State) (rest : List Request) :
    step (s.setPort (.issue (encode .frame) :: rest)) = execFrame (s.setPort rest) :=
  step_of_instr (i := .frame) (fetch_of_issue rfl) rfl

/-- A run of requests that are all iterations of the loop, however each is asked for. -/
theorem run_succ_of_frame {r : Request} (hr : ∀ (s : State) rest, step (s.setPort (r :: rest)) = execFrame (s.setPort rest))
    {s t : State} (ht : ∀ p, execFrame (s.setPort p) = .next (t.setPort p)) (n : Nat) :
    core.run (n + 1) (s.setPort (List.replicate (n + 1) r)) = core.run n (t.setPort (List.replicate n r)) := by
  have hstep : core.step (s.setPort (List.replicate (n + 1) r)) = .next (t.setPort (List.replicate n r)) :=
    (hr s _).trans (ht _)
  simp only [Host.Core.run, hstep]

/-- As many iterations with either pairing end in one state. -/
theorem run_pairings_agree (n : Nat) (s : State) (h : s.cur ≤ s.stream.len) :
    ∃ t, core.run n (s.setPort (List.replicate n .otherFrame)) = .next t ∧
      core.run n (s.setPort (List.replicate n (.issue (encode .frame)))) = .next t := by
  induction n generalizing s with
  | zero => exact ⟨_, rfl, rfl⟩
  | succ n ih =>
    obtain ⟨u, hu, hframe⟩ := execFrame_setPort s h
    rw [run_succ_of_frame step_otherFrame hframe, run_succ_of_frame step_issueFrame hframe]
    exact ih u hu

/-! ### The obligations -/

/-- Settles O46, by what stands ahead of the cursor. -/
theorem frameRunsOneDriverIteration : Obligations.FrameRunsOneDriverIteration := by
  intro s h
  refine ⟨fun hno => ?_, fun i hi => ⟨fun hl => ?_, fun b1 b2 b3 h1 h2 h3 => ?_⟩⟩
  · exact (execFrame_of_none h hno).trans (congrArg _ (State.stopRun_eq _ _))
  · exact (execFrame_of_truncated h hi hl).trans (congrArg _ (State.stopRun_eq _ _))
  · exact (execFrame_of_header h hi h1 h2 h3).trans (congrArg _ (State.frameReport_eq s i _))

/-- Settles O47: a complete header ends four bytes after the sync, which is at or after the cursor. -/
theorem frameReportsAdvanceByFour : Obligations.FrameReportsAdvanceByFour := by
  intro s t h ht
  rcases sync_ahead_cases s.stream s.cur h with hno | ⟨i, hi, hl | ⟨b1, b2, b3, h1, h2, h3⟩⟩
  · cases (execFrame_of_none h hno).symm.trans ht
    exact .inr ⟨rfl, rfl, rfl, State.stopRun_runEnd_ne_none _ _⟩
  · cases (execFrame_of_truncated h hi hl).symm.trans ht
    exact .inr ⟨rfl, rfl, rfl, State.stopRun_runEnd_ne_none _ _⟩
  · cases (execFrame_of_header h hi h1 h2 h3).symm.trans ht
    rw [State.frameReport_eq]
    refine .inl ⟨_, _, rfl, Nat.add_le_add_right hi.1 4, rfl, ?_⟩
    exact (apply_ite (s.vcount + ·) _ 1 0).symm

/-- Settles O48: at the end no sync is ahead and no byte is left, and a run that has ended keeps its end. -/
theorem endOfInputIsAbsorbing : Obligations.EndOfInputIsAbsorbing := by
  intro s h
  have hno (i : Nat) (hi : s.cur ≤ i) : ¬ SyncIndex s.stream i := not_syncIndex_last _ _ (by omega)
  have hmiss : s.scanMiss = { s with matched := false, res := .rNoMatch } := by rw [State.scanMiss, ← h]
  have hinc : s.incomplete = { s with hdrv := false, rv := false, reason := .noReason, res := .rIncomplete } := by
    rw [State.incomplete, ← h]
  refine ⟨?_, ?_, ?_, ?_, fun hend => ?_⟩
  · exact (scan_of_none 1 s h.le hno).trans (congrArg _ hmiss)
  · exact (scan_of_none 0 s h.le hno).trans (congrArg _ hmiss)
  · exact (decodeThree_of_short (by omega)).trans (congrArg _ hinc)
  · exact (decodeFour_of_short (by omega)).trans (congrArg _ hinc)
  · have hstop : s.frameEnd = s.scanMiss := State.stopRun_of_ended _ _ hend
    exact (execFrame_of_none h.le hno).trans (congrArg _ (hstop.trans hmiss))

/-- Settles O54: an iteration is the same with either pairing, and so is every run of them. -/
theorem otherPairingRunsTheSameLoop : Obligations.OtherPairingRunsTheSameLoop := by
  refine ⟨fun s rest hp => ?_, run_pairings_agree⟩
  exact (step_of_otherFrame hp).trans (runOtherFrame_eq_execFrame _)

end Sys2Proof.Machine
end

section
/-! PROOFS. The operations on a held header (42 section 4, 43 R104), the reserved command (60 R131) and the rows of stream
words (30 R54, R61). -/

namespace Sys2Proof.Machine

/-! ### The table accessors -/

section
variable {s : State} {f : Word → Option Dout}

theorem lookup_of_notHeld (h : s.hdrv = false) : lookup s f = .next (s.refuse .eNoHdr) := withHeader_none s _ h

theorem lookup_of_badKey (h : s.hdrv = true) (hf : f s.h = none) : lookup s f = .next (s.refuse .eBadKey) := by
  rw [lookup, withHeader_held s _ h, hf]

theorem lookup_of_found (h : s.hdrv = true) {d : Dout} (hf : f s.h = some d) : lookup s f = .next (s.setDout d) := by
  rw [lookup, withHeader_held s _ h, hf]

end

/-- A reserved version or layer has no row of the bitrate table (42 section 4). -/
theorem bitrateOf_eq_none {T : Tables} {h : Word} (hk : (fields h).version = .invalid ∨ (fields h).layer = .invalid) :
    bitrateOf T h = none := by
  unfold bitrateOf
  split
  · next v l hv hl =>
    rcases hk with hk | hk
    · cases ((versionKey?_eq_none_iff _).mpr hk).symm.trans hv
    · cases ((layerKey?_eq_none_iff _).mpr hk).symm.trans hl
  · rfl

/-- A reserved version has no column of the sample-rate table, whatever the layer (42 section 4). -/
theorem sampleRateOf_eq_none {T : Tables} {h : Word} (hk : (fields h).version = .invalid) : sampleRateOf T h = none := by
  simp only [sampleRateOf, (versionKey?_eq_none_iff _).mpr hk]

/-! ### The header rows -/

theorem exec_of_isHeaderRow {i : Instr} {h : Word} (hi : i.IsHeaderRow h) (s : State) : exec i s = runHeaderWord h s := by
  rcases (i.isHeaderRow_iff h).mp hi with rfl | rfl | rfl | rfl | rfl | rfl | rfl <;> rfl

theorem runHeaderWord_of_short {h : Word} {s : State} (hl : s.stream.len < s.cur + 4) :
    runHeaderWord h s = .next s.incomplete :=
  if_pos (by omega)

theorem runHeaderWord_of_left {h : Word} {s : State} (hl : s.cur + 4 ≤ s.stream.len) :
    runHeaderWord h s = .next ((s.loadHeader 4 h).setVerdict (validate s.tables h)) :=
  (if_neg (by omega)).trans (validateHeader_held _ rfl)

theorem runSyncWord_of_short {s : State} (hl : s.stream.len < s.cur + 2) : runSyncWord s = .next s.scanMiss :=
  if_pos (by omega)

theorem runSyncWord_of_left {s : State} (hl : s.cur + 2 ≤ s.stream.len) :
    runSyncWord s = .next (s.scanHit (s.cur + 1)) :=
  if_neg (by omega)

/-! ### The obligations -/

/-- Settles O22, by the two values of `HDRV`. -/
theorem validLatchesTheVerdict : Obligations.ValidLatchesTheVerdict :=
  fun s => ⟨validateHeader_held s, validateHeader_none s⟩

/-- Settles O29: a refusal by the header or the key, and otherwise the row's entry. -/
theorem brateLooksUpTheBitrate : Obligations.BrateLooksUpTheBitrate := by
  refine fun s => ⟨fun hh => lookup_of_notHeld hh, fun hh hk => ?_, fun hh hv hl => ?_⟩
  · exact lookup_of_badKey hh (by rw [bitrateOf_eq_none hk, Option.map_none])
  · obtain ⟨v, hv⟩ := exists_versionKey hv
    obtain ⟨l, hl⟩ := exists_layerKey hl
    have hr := bitrateOf_of_keys s.tables s.h hv hl
    have hd := lookup_of_found (f := fun h => (bitrateOf s.tables h).map doutOfBitrate) hh (by rw [hr, Option.map_some])
    refine ⟨_, hr, fun n hn => ?_, fun hn => ?_, fun hn => ?_⟩ <;>
      · rw [hn] at hd
        exact hd

/-- Settles O30: a refusal by the header or the version, and otherwise the column's entry. -/
theorem srateLooksUpTheSampleRate : Obligations.SrateLooksUpTheSampleRate := by
  refine fun s => ⟨fun hh => lookup_of_notHeld hh, fun hh hk => ?_, fun hh hv => ?_⟩
  · exact lookup_of_badKey hh (by rw [sampleRateOf_eq_none hk, Option.map_none])
  · obtain ⟨v, hv⟩ := exists_versionKey hv
    have hr := sampleRateOf_of_key s.tables s.h hv
    have hd := lookup_of_found (f := fun h => (sampleRateOf s.tables h).map doutOfSampleRate) hh
      (by rw [hr, Option.map_some])
    refine ⟨_, hr, fun n hn => ?_, fun hn => ?_⟩ <;>
      · rw [hn] at hd
        exact hd

/-- Settles O33. -/
theorem reservedCommandWritesOnlyTheResult : Obligations.ReservedCommandWritesOnlyTheResult := fun _ => rfl

/-- Settles O49: the seven rows are one operation on their word. -/
theorem headerRowsDecodeAndValidate : Obligations.HeaderRowsDecodeAndValidate := by
  intro h s i hi
  have hrow := (i.isHeaderRow_iff h).mpr hi
  rw [exec_of_isHeaderRow hrow]
  exact ⟨runHeaderWord_of_left, runHeaderWord_of_short⟩

/-- Settles O50: the row's word is the header that DEC4 loads. -/
theorem headerRowIsDec4ThenValid : Obligations.HeaderRowIsDec4ThenValid := by
  intro s b0 b1 b2 b3 i h0 h1 h2 h3 hd
  obtain ⟨-, hrow⟩ := wf_of_decodeHeaderWord hd
  refine ⟨_, decodeFour_of_bytes h0 h1 h2 h3, rfl, ?_⟩
  rw [exec_of_isHeaderRow hrow, runHeaderWord_of_left (Stream.lt_of_byteAt _ _ _ h3)]
  exact (validateHeader_held _ rfl).symm

/-- Settles O51: bytes that decode to the sync row make the cursor its own least sync index. -/
theorem syncRowIsScanCAtTheCursor : Obligations.SyncRowIsScanCAtTheCursor := by
  refine ⟨fun low s => ⟨runSyncWord_of_left, runSyncWord_of_short⟩, fun s b0 b1 i h0 h1 hd => ?_⟩
  obtain ⟨⟨rfl, htop⟩, rfl⟩ := (decodeSync_eq_instr_iff b0 b1 i).mp hd
  have hs : SyncIndex s.stream s.cur := ⟨h0, b1, h1, beq_iff_eq.mpr htop⟩
  have hcur := Stream.lt_of_byteAt _ _ _ h0
  exact (runSyncWord_of_left (Stream.lt_of_byteAt _ _ _ h1)).trans (scan_of_least 1 s hcur.le s.cur (.self hs)).symm

end Sys2Proof.Machine
end

section
/-! PROOFS. The table properties P1 to P5 (42 R96): the launch test on the tables, the places of the sentinels, and the
facts of the default tables (42 R97). -/

namespace Sys2Proof

/-! ### The launch test, row by row -/

theorem Bitrate.isNumber_iff (b : Bitrate) : b.isNumber = true ↔ ∃ n, 0 < n.toNat ∧ b = .bps n := by
  cases b with
  | bps n => simp [Bitrate.isNumber, Nat.pos_iff_ne_zero, ← BitVec.toNat_ne_iff_ne]
  | free | invalid => simp [Bitrate.isNumber]

theorem SampleRate.isNumber_iff (r : SampleRate) : r.isNumber = true ↔ ∃ n, 0 < n.toNat ∧ r = .hz n := by
  cases r with
  | hz n => simp [SampleRate.isNumber, Nat.pos_iff_ne_zero, ← BitVec.toNat_ne_iff_ne]
  | reserved => simp [SampleRate.isNumber]

/-- A property of a run of a table row's entries, index by index. -/
theorem all_take_drop_iff {α : Type} {w : Nat} (r : Vector α (2 ^ w)) (p : α → Bool) (a m : Nat) (h : a + m ≤ 2 ^ w) :
    ((r.toList.drop a).take m).all p = true ↔
      ∀ i : BitVec w, a ≤ i.toNat → i.toNat < a + m → p (r.get i.toFin) = true := by
  rw [List.all_eq_true, List.forall_mem_iff_forall_getElem]
  constructor
  · intro hall i hlo hhi
    have hk := hall (i.toNat - a) (by simp; omega)
    simp only [List.getElem_take, List.getElem_drop, Nat.add_sub_cancel' hlo] at hk
    exact hk
  · intro hall k hk
    have hkm : k < m := (List.length_take_le _ _).trans_lt' hk
    simp only [List.getElem_take, List.getElem_drop]
    exact hall (BitVec.ofFin ⟨a + k, by omega⟩) (Nat.le_add_right a k) (Nat.add_lt_add_left hkm a)

/-- The test of a bitrate row, entry by entry. -/
theorem bitrateRowOk_iff (r : Vector Bitrate 16) :
    bitrateRowOk r = true ↔
      r.get (0b1111#4).toFin = .invalid ∧ r.get (0b0000#4).toFin = .free ∧
        ∀ i : BitVec 4, i ≠ 0b0000#4 → i ≠ 0b1111#4 → ∃ n, 0 < n.toNat ∧ r.get i.toFin = .bps n := by
  have hmid : (r.toList.tail.take 14).all Bitrate.isNumber = true ↔
      ∀ i : BitVec 4, i ≠ 0b0000#4 → i ≠ 0b1111#4 → ∃ n, 0 < n.toNat ∧ r.get i.toFin = .bps n := by
    rw [← List.drop_one, all_take_drop_iff (w := 4) r _ 1 14 (by decide)]
    simp only [Bitrate.isNumber_iff]
    refine forall_congr' fun i => ⟨fun h h0 h15 => h ?_ ?_, fun h hlo hhi => h ?_ ?_⟩ <;> bv_omega
  rw [bitrateRowOk, Bool.and_eq_true, Bool.and_eq_true, beq_iff_eq, beq_iff_eq, hmid, and_assoc, and_left_comm]
  rfl

/-- The test of a sample-rate column, entry by entry. -/
theorem sampleRateColumnOk_iff (r : Vector SampleRate 4) :
    sampleRateColumnOk r = true ↔
      r.get (0b11#2).toFin = .reserved ∧
        ∀ i : BitVec 2, i ≠ 0b11#2 → ∃ n, 0 < n.toNat ∧ r.get i.toFin = .hz n := by
  have hlow : (r.toList.take 3).all SampleRate.isNumber = true ↔
      ∀ i : BitVec 2, i ≠ 0b11#2 → ∃ n, 0 < n.toNat ∧ r.get i.toFin = .hz n := by
    rw [← List.drop_zero (l := r.toList), all_take_drop_iff (w := 2) r _ 0 3 (by decide)]
    simp only [SampleRate.isNumber_iff]
    refine forall_congr' fun i => ⟨fun h h3 => h (Nat.zero_le _) ?_, fun h _ hhi => h ?_⟩ <;> bv_omega
  rw [sampleRateColumnOk, Bool.and_eq_true, beq_iff_eq, hlow]
  rfl

theorem forall_versionClass {p : VersionClass → Prop} : (∀ c, p c) ↔ p .v1 ∧ p .v2 :=
  ⟨fun h => ⟨h _, h _⟩, fun ⟨h1, h2⟩ c => by cases c <;> assumption⟩

theorem forall_layerKey {p : LayerKey → Prop} : (∀ l, p l) ↔ p .l1 ∧ p .l2 ∧ p .l3 :=
  ⟨fun h => ⟨h _, h _, h _⟩, fun ⟨h1, h2, h3⟩ l => by cases l <;> assumption⟩

theorem forall_versionKey {p : VersionKey → Prop} : (∀ v, p v) ↔ p .mpeg1 ∧ p .mpeg2 ∧ p .mpeg25 :=
  ⟨fun h => ⟨h _, h _, h _⟩, fun ⟨h1, h2, h3⟩ v => by cases v <;> assumption⟩

/-- The launch test is a test of every row and column, and of the Layer II rows against the default ones. -/
theorem Tables.ok_iff_rows (T : Tables) :
    T.ok = true ↔ (∀ c l, bitrateRowOk (T.bitrateRow c l) = true) ∧ (∀ v, sampleRateColumnOk (T.sampleRateColumn v) = true) ∧
      ∀ c, T.bitrateRow c .l2 = Machine.defaultTables.bitrateRow c .l2 := by
  simp only [Tables.ok, Bool.and_eq_true, beq_iff_eq, forall_versionClass, forall_layerKey, forall_versionKey,
    Tables.bitrateRow, Tables.sampleRateColumn, and_assoc]

theorem Tables.rows_ok_iff (T : Tables) : (∀ c l, bitrateRowOk (T.bitrateRow c l) = true) ↔ T.P1 ∧ T.P2 ∧ T.P3 := by
  simp only [bitrateRowOk_iff, forall_and]
  rfl

theorem Tables.columns_ok_iff (T : Tables) : (∀ v, sampleRateColumnOk (T.sampleRateColumn v) = true) ↔ T.P4 := by
  simp only [sampleRateColumnOk_iff]
  rfl

theorem Tables.layerTwo_rows_iff (T : Tables) :
    (∀ c, T.bitrateRow c .l2 = Machine.defaultTables.bitrateRow c .l2) ↔ T.P5 := by
  refine ⟨fun h c i => congrArg (fun r : Vector Bitrate 16 => r.get i.toFin) (h c), fun h c => Vector.ext fun k hk => ?_⟩
  exact h c (BitVec.ofFin ⟨k, hk⟩)

theorem Tables.ok_iff (T : Tables) : T.ok = true ↔ T.P1 ∧ T.P2 ∧ T.P3 ∧ T.P4 ∧ T.P5 := by
  rw [T.ok_iff_rows, T.rows_ok_iff, T.columns_ok_iff, T.layerTwo_rows_iff]
  simp only [and_assoc]

namespace Machine

theorem defaultTables_ok : defaultTables.ok = true := by decide

/-! ### Where the sentinels stand -/

section
variable {T : Tables}

theorem bitrate_eq_invalid_iff (h1 : T.P1) (h2 : T.P2) (h3 : T.P3) (c : VersionClass) (l : LayerKey) (i : BitVec 4) :
    T.bitrate c l i = .invalid ↔ i = 0b1111#4 := by
  refine ⟨fun h => ?_, fun h => h ▸ h1 c l⟩
  by_contra hne
  by_cases h0 : i = 0b0000#4
  · cases (h0 ▸ h2 c l).symm.trans h
  · obtain ⟨n, -, hn⟩ := h3 c l i h0 hne
    cases hn.symm.trans h

theorem bitrate_eq_free_iff (h1 : T.P1) (h2 : T.P2) (h3 : T.P3) (c : VersionClass) (l : LayerKey) (i : BitVec 4) :
    T.bitrate c l i = .free ↔ i = 0b0000#4 := by
  refine ⟨fun h => ?_, fun h => h ▸ h2 c l⟩
  by_contra hne
  by_cases h15 : i = 0b1111#4
  · cases (h15 ▸ h1 c l).symm.trans h
  · obtain ⟨n, -, hn⟩ := h3 c l i hne h15
    cases hn.symm.trans h

theorem sampleRate_eq_reserved_iff (h4 : T.P4) (v : VersionKey) (i : BitVec 2) :
    T.sampleRate v i = .reserved ↔ i = 0b11#2 := by
  refine ⟨fun h => ?_, fun h => h ▸ (h4 v).1⟩
  by_contra hne
  obtain ⟨n, -, hn⟩ := (h4 v).2 i hne
  cases hn.symm.trans h

end

/-! ### The default tables -/

/-- The first entry is a smaller number, where both are numbers. -/
def bitrateBelow : Bitrate → Bitrate → Bool
  | .bps m, .bps n => decide (m < n)
  | .bps _, .free | .bps _, .invalid | .free, _ | .invalid, _ => true

/-- The entry lies between two numbers, where it is one. -/
def bitrateWithin (lo hi : Nat) : Bitrate → Bool
  | .bps n => decide (lo ≤ n.toNat ∧ n.toNat ≤ hi)
  | .free | .invalid => true

theorem default_rows_rise (c : VersionClass) (l : LayerKey) :
    (defaultTables.bitrateRow c l).toList.Pairwise fun a b => bitrateBelow a b = true := by
  cases c <;> cases l <;> decide

theorem default_rows_within (c : VersionClass) (l : LayerKey) :
    (defaultTables.bitrateRow c l).toList.all (bitrateWithin 8000 448000) = true := by
  cases c <;> cases l <;> decide

theorem default_bitrate_rises {c : VersionClass} {l : LayerKey} {i j : BitVec 4} {m n : Word}
    (hm : defaultTables.bitrate c l i = .bps m) (hn : defaultTables.bitrate c l j = .bps n) (hij : i < j) : m < n := by
  have hp := List.pairwise_iff_getElem.mp (default_rows_rise c l) i.toNat j.toNat
    (by simpa using i.isLt) (by simpa using j.isLt) hij
  change bitrateBelow (defaultTables.bitrate c l i) (defaultTables.bitrate c l j) = true at hp
  rw [hm, hn] at hp
  exact of_decide_eq_true hp

theorem default_bitrate_within {c : VersionClass} {l : LayerKey} {i : BitVec 4} {n : Word}
    (hn : defaultTables.bitrate c l i = .bps n) : 8000 ≤ n.toNat ∧ n.toNat ≤ 448000 := by
  have hw := List.all_eq_true.mp (default_rows_within c l) (defaultTables.bitrate c l i)
    (Vector.mem_toList_iff.mpr (Vector.getElem_mem _))
  rw [hn] at hw
  exact of_decide_eq_true hw

theorem default_layers_two_and_three_agree :
    ∀ i : BitVec 4, defaultTables.bitrate .v2 .l2 i = defaultTables.bitrate .v2 .l3 i := by
  decide

theorem index_cases : ∀ i : BitVec 2, i = 0b00#2 ∨ i = 0b01#2 ∨ i = 0b10#2 ∨ i = 0b11#2 := by decide

/-- A sample rate of MPEG_1 is twice that of MPEG_2 and four times that of MPEG_2_5 (42 R92). -/
theorem default_sampleRates_halve {i : BitVec 2} {n : Word} (hn : defaultTables.sampleRate .mpeg1 i = .hz n) :
    ∃ m k, defaultTables.sampleRate .mpeg2 i = .hz m ∧ defaultTables.sampleRate .mpeg25 i = .hz k ∧
      n.toNat = 2 * m.toNat ∧ m.toNat = 2 * k.toNat := by
  rcases index_cases i with rfl | rfl | rfl | rfl
  · cases (rfl : defaultTables.sampleRate .mpeg1 0b00#2 = .hz 44100#32).symm.trans hn
    exact ⟨22050#32, 11025#32, rfl, rfl, rfl, rfl⟩
  · cases (rfl : defaultTables.sampleRate .mpeg1 0b01#2 = .hz 48000#32).symm.trans hn
    exact ⟨24000#32, 12000#32, rfl, rfl, rfl, rfl⟩
  · cases (rfl : defaultTables.sampleRate .mpeg1 0b10#2 = .hz 32000#32).symm.trans hn
    exact ⟨16000#32, 8000#32, rfl, rfl, rfl, rfl⟩
  · cases (rfl : defaultTables.sampleRate .mpeg1 0b11#2 = .reserved).symm.trans hn

/-! ### The obligations -/

/-- Settles O31: the test goes row by row, and the properties leave each sentinel one index. -/
theorem sentinelsStandAtTheirIndices : Obligations.SentinelsStandAtTheirIndices := by
  refine ⟨Tables.ok_iff, defaultTables_ok, fun T h h1 h2 h3 h4 hv => ?_⟩
  obtain ⟨v, hv⟩ := exists_versionKey hv
  refine ⟨?_, fun hl => ?_⟩
  · rw [sampleRateOf_of_key T h hv, Option.some_inj, sampleRate_eq_reserved_iff h4]
    rfl
  · obtain ⟨l, hl⟩ := exists_layerKey hl
    rw [bitrateOf_of_keys T h hv hl, Option.some_inj, Option.some_inj, bitrate_eq_invalid_iff h1 h2 h3,
      bitrate_eq_free_iff h1 h2 h3]
    exact ⟨Iff.rfl, Iff.rfl⟩

/-- Settles O32: each row is checked entry by entry, and each index of the sample-rate columns by its values. -/
theorem defaultTableFacts : Obligations.DefaultTableFacts :=
  ⟨fun _ _ _ _ _ _ => default_bitrate_rises, fun _ _ _ _ => default_bitrate_within, rfl, rfl,
    default_layers_two_and_three_agree, fun _ _ => default_sampleRates_halve⟩

end Machine
end Sys2Proof
end

section
/-! PROOFS. The validator on code points: which bits a verdict reads (43 R109), and which table entries (42 R96). -/

namespace Sys2Proof.Machine

/-! ### The reserved code points -/

theorem versionOf_eq_invalid_iff : ∀ v : BitVec 2, versionOf v = .invalid ↔ v = 0b01#2 := by decide

theorem layerOf_eq_invalid_iff : ∀ v : BitVec 2, layerOf v = .invalid ↔ v = 0b00#2 := by decide

theorem emphasisOf_eq_invalid_iff : ∀ v : BitVec 2, emphasisOf v = .invalid ↔ v = 0b10#2 := by decide

section
variable (h : Word)

theorem version_invalid_iff : (fields h).version = .invalid ↔ hasReservedVersion h = true :=
  (versionOf_eq_invalid_iff _).trans beq_iff_eq.symm

theorem layer_invalid_iff : (fields h).layer = .invalid ↔ hasReservedLayer h = true :=
  (layerOf_eq_invalid_iff _).trans beq_iff_eq.symm

theorem emphasis_invalid_iff : (fields h).emphasis = .invalid ↔ hasReservedEmphasis h = true :=
  (emphasisOf_eq_invalid_iff _).trans beq_iff_eq.symm

theorem bri_invalid_iff : (fields h).bri = 0b1111#4 ↔ hasInvalidBitrate h = true := beq_iff_eq.symm

theorem bri_free_iff : (fields h).bri = 0b0000#4 ↔ hasFreeBitrate h = true := beq_iff_eq.symm

theorem sri_reserved_iff : (fields h).sri = 0b11#2 ↔ hasReservedSampleRate h = true := beq_iff_eq.symm

end

/-! ### The chain on code points -/

/-- Step 5 of the validator on a header word (43 R108); no step 5 without a version key. -/
def barredInLayerTwo (T : Tables) (h : Word) : Bool :=
  match versionKey? (fields h).version with
  | some v =>
    decide ((fields h).layer = .layer2) &&
      layerTwoExcluded .l2 (fields h).mode (T.bitrate (versionClass v) .l2 (fields h).bri)
  | none => false

theorem barredInLayerTwo_of_keys (T : Tables) {h : Word} {v : VersionKey} {l : LayerKey}
    (hv : versionKey? (fields h).version = some v) (hl : layerKey? (fields h).layer = some l) :
    layerTwoExcluded l (fields h).mode (T.bitrate (versionClass v) l (fields h).bri) = barredInLayerTwo T h := by
  simp only [barredInLayerTwo, hv]
  by_cases h2 : (fields h).layer = .layer2
  · cases (layerKey?_eq_l2_iff _).mpr h2 |>.symm.trans hl
    rw [decide_eq_true h2, Bool.true_and]
  · have hne : l ≠ .l2 := fun e => h2 ((layerKey?_eq_l2_iff _).mp (e ▸ hl))
    rw [decide_eq_false h2, Bool.false_and, ← Bool.not_eq_true, layerTwoExcluded_iff]
    exact fun hx => hne hx.1

/-- For tables with P1 to P4 the verdict is decided by code points and step 5 (42 R96). -/
theorem validate_eq_of_properties {T : Tables} (h1 : T.P1) (h2 : T.P2) (h3 : T.P3) (h4 : T.P4) (h : Word) :
    validate T h =
      if hasReservedVersion h then .invalidMpegVersion
      else if hasReservedLayer h then .invalidLayer
      else if hasInvalidBitrate h then .invalidBitrateForVersion
      else if hasReservedSampleRate h then .invalidSampleRateForVersion
      else if barredInLayerTwo T h then .invalidLayerIIBitrateAndMode
      else if hasReservedEmphasis h then .invalidEmphasis
      else .noReason := by
  simp only [← version_invalid_iff, ← layer_invalid_iff]
  by_cases hv : (fields h).version = .invalid
  · rw [if_pos hv, validate_of_reservedVersion T h hv]
  by_cases hl : (fields h).layer = .invalid
  · rw [if_neg hv, if_pos hl, validate_of_reservedLayer T h hv hl]
  rw [if_neg hv, if_neg hl]
  obtain ⟨v, hv⟩ := exists_versionKey hv
  obtain ⟨l, hl⟩ := exists_layerKey hl
  simp only [validate_of_keys T h hv hl, bitrate_eq_invalid_iff h1 h2 h3, sampleRate_eq_reserved_iff h4,
    barredInLayerTwo_of_keys T hv hl, bri_invalid_iff, sri_reserved_iff, emphasis_invalid_iff]

/-- Step 5 reads the Layer II rows alone (43 R108). -/
theorem barredInLayerTwo_congr {T U : Tables} (hrows : ∀ c i, T.bitrate c .l2 i = U.bitrate c .l2 i) (h : Word) :
    barredInLayerTwo T h = barredInLayerTwo U h := by
  unfold barredInLayerTwo
  split
  · rw [hrows]
  · rfl

/-! ### The fourteen bits -/

/-- Words that agree under a mask have the same fields wherever the mask is all ones. -/
theorem extractLsb'_eq_of_and_eq {n : Nat} {h g mask : BitVec n} (e : h &&& mask = g &&& mask) {k w : Nat}
    (hm : mask.extractLsb' k w = BitVec.allOnes w) : h.extractLsb' k w = g.extractLsb' k w := by
  have := congrArg (BitVec.extractLsb' k w) e
  rwa [BitVec.extractLsb'_and, BitVec.extractLsb'_and, hm, BitVec.and_allOnes, BitVec.and_allOnes] at this

/-- The validator reads six fields (43 R109). -/
theorem validate_congr (T : Tables) {h g : Word} (hv : verBits h = verBits g) (hl : layBits h = layBits g)
    (hb : briBits h = briBits g) (hs : sriBits h = sriBits g) (hm : modeBits h = modeBits g)
    (he : emphBits h = emphBits g) : validate T h = validate T g := by
  have hversion : (fields h).version = (fields g).version := congrArg versionOf hv
  have hlayer : (fields h).layer = (fields g).layer := congrArg layerOf hl
  have hbri : (fields h).bri = (fields g).bri := hb
  have hsri : (fields h).sri = (fields g).sri := hs
  have hmode : (fields h).mode = (fields g).mode := congrArg modeOf hm
  have hemph : (fields h).emphasis = (fields g).emphasis := congrArg emphasisOf he
  rw [validate, validate, hversion, hlayer, hbri, hsri, hmode, hemph]

/-! ### Step 5 with the default tables -/

theorem default_layerTwoExcluded_v1 : ∀ (m : BitVec 2) (i : BitVec 4),
    layerTwoExcluded .l2 (modeOf m) (defaultTables.bitrate .v1 .l2 i) = true ↔
      (m = 0b11#2 ∧ i.toNat ∈ [11, 12, 13, 14]) ∨ (m ≠ 0b11#2 ∧ i.toNat ∈ [1, 2, 3, 5]) := by
  decide

theorem default_layerTwoExcluded_v2 : ∀ (m : BitVec 2) (i : BitVec 4),
    layerTwoExcluded .l2 (modeOf m) (defaultTables.bitrate .v2 .l2 i) = true ↔
      m ≠ 0b11#2 ∧ i.toNat ∈ [4, 5, 6, 7, 9] := by
  decide

theorem layerOf_eq_layer2_iff : ∀ v : BitVec 2, layerOf v = .layer2 ↔ v = 0b10#2 := by decide

/-- The bitrate table's class of a version that is not reserved: MPEG_1 has the code point 11 (30 R48, 42 R87). -/
theorem versionClass_cases : ∀ v : BitVec 2, v ≠ 0b01#2 →
    ∃ k, versionKey? (versionOf v) = some k ∧
      ((v = 0b11#2 ∧ versionClass k = .v1) ∨ (v ≠ 0b11#2 ∧ versionClass k = .v2)) := by
  intro v hv
  rcases index_cases v with rfl | rfl | rfl | rfl
  · exact ⟨.mpeg25, rfl, .inr ⟨by decide, rfl⟩⟩
  · exact absurd rfl hv
  · exact ⟨.mpeg2, rfl, .inr ⟨by decide, rfl⟩⟩
  · exact ⟨.mpeg1, rfl, .inl ⟨rfl, rfl⟩⟩

/-- Step 5 with the default tables, on raw bits and table indices (43 R112). -/
theorem barredInLayerTwo_default_iff (h : Word) (hv : verBits h ≠ 0b01#2) :
    barredInLayerTwo defaultTables h = true ↔
      (layBits h = 0b10#2 ∧ verBits h = 0b11#2 ∧ modeBits h = 0b11#2 ∧ (briBits h).toNat ∈ [11, 12, 13, 14]) ∨
        (layBits h = 0b10#2 ∧ verBits h = 0b11#2 ∧ modeBits h ≠ 0b11#2 ∧ (briBits h).toNat ∈ [1, 2, 3, 5]) ∨
        (layBits h = 0b10#2 ∧ verBits h ≠ 0b11#2 ∧ modeBits h ≠ 0b11#2 ∧ (briBits h).toNat ∈ [4, 5, 6, 7, 9]) := by
  obtain ⟨k, hk, hclass⟩ := versionClass_cases (verBits h) hv
  have hk' : versionKey? (fields h).version = some k := hk
  have hlay : (fields h).layer = .layer2 ↔ layBits h = 0b10#2 := layerOf_eq_layer2_iff _
  simp only [barredInLayerTwo, hk', Bool.and_eq_true, decide_eq_true_eq, hlay, ← and_or_left]
  refine and_congr_right fun _ => ?_
  rcases hclass with ⟨h11, hc⟩ | ⟨h11, hc⟩
  · rw [hc]
    refine (default_layerTwoExcluded_v1 (modeBits h) (briBits h)).trans ?_
    simp only [h11, true_and, ne_eq, not_true, false_and, or_false]
  · rw [hc]
    refine (default_layerTwoExcluded_v2 (modeBits h) (briBits h)).trans ?_
    simp only [h11, false_and, false_or, ne_eq, not_false_eq_true, true_and]

theorem defaultTables_properties :
    defaultTables.P1 ∧ defaultTables.P2 ∧ defaultTables.P3 ∧ defaultTables.P4 ∧ defaultTables.P5 :=
  (Tables.ok_iff _).mp defaultTables_ok

theorem toNat_eq_fifteen_iff : ∀ i : BitVec 4, i.toNat = 15 ↔ i = 0b1111#4 := by decide

/-! ### The obligations -/

/-- Settles O24: both sides are the same chain, with step 5 of the default tables spelt out on raw bits. -/
theorem validatorOnRawBits : Obligations.ValidatorOnRawBits := by
  intro h
  obtain ⟨h1, h2, h3, h4, -⟩ := defaultTables_properties
  rw [validate_eq_of_properties h1 h2 h3 h4]
  simp only [decide_eq_true_eq, decide_eq_false_iff_not, ← ite_or]
  refine ite_congr (propext beq_iff_eq) (fun _ => rfl) fun hv => ?_
  refine ite_congr (propext beq_iff_eq) (fun _ => rfl) fun _ => ?_
  refine ite_congr (propext (beq_iff_eq.trans (toNat_eq_fifteen_iff _).symm)) (fun _ => rfl) fun _ => ?_
  refine ite_congr (propext beq_iff_eq) (fun _ => rfl) fun _ => ?_
  refine ite_congr (propext (barredInLayerTwo_default_iff h hv)) (fun _ => rfl) fun _ => ?_
  exact ite_congr (propext beq_iff_eq) (fun _ => rfl) fun _ => rfl

/-- Settles O25: each field the validator reads lies under the mask. -/
theorem verdictReadsFourteenBits : Obligations.VerdictReadsFourteenBits :=
  fun T _ _ e => validate_congr T (extractLsb'_eq_of_and_eq e rfl) (extractLsb'_eq_of_and_eq e rfl)
    (extractLsb'_eq_of_and_eq e rfl) (extractLsb'_eq_of_and_eq e rfl) (extractLsb'_eq_of_and_eq e rfl)
    (extractLsb'_eq_of_and_eq e rfl)

/-- Settles O26: P1 to P4 leave the chain on code points, and P5 its step 5. -/
theorem verdictsRestOnTableProperties : Obligations.VerdictsRestOnTableProperties := by
  intro T h1 h2 h3 h4 h5 h
  obtain ⟨d1, d2, d3, d4, -⟩ := defaultTables_properties
  rw [validate_eq_of_properties h1 h2 h3 h4, validate_eq_of_properties d1 d2 d3 d4, barredInLayerTwo_congr h5]

/-- Settles O27: the chain on code points, read off case by case. -/
theorem reservedCodePointsGiveReasons : Obligations.ReservedCodePointsGiveReasons := by
  intro T h h1 h2 h3 h4
  rw [validate_eq_of_properties h1 h2 h3 h4]
  refine ⟨fun hv => ?_, fun hv hl => ?_, fun hv hl => ⟨fun hb => ?_, fun hb hs => ?_, fun hb hs he => ?_,
    fun hb hs he => ?_⟩⟩
  · simp [hv]
  · simp [hv, hl]
  · simp [hv, hl, hb]
  · simp [hv, hl, hb, hs]
  · cases hx : barredInLayerTwo T h <;> simp [hv, hl, hb, hs, he]
  · cases hx : barredInLayerTwo T h <;> simp [hv, hl, hb, hs, he]

/-- Settles O28: index 0 is FREE in the row of the header's keys, and step 5 bars numbers alone. -/
theorem freeFormatIsAccepted : Obligations.FreeFormatIsAccepted := by
  intro T h h2 h4 hf hv hl hs he
  obtain ⟨v, hv⟩ := exists_versionKey (mt (version_invalid_iff h).mp (Bool.eq_false_iff.mp hv))
  obtain ⟨l, hl⟩ := exists_layerKey (mt (layer_invalid_iff h).mp (Bool.eq_false_iff.mp hl))
  have hfree : T.bitrate (versionClass v) l (fields h).bri = .free := by
    rw [(bri_free_iff h).mpr hf, h2]
  have hsr : T.sampleRate v (fields h).sri ≠ .reserved :=
    mt (sampleRate_eq_reserved_iff h4 _ _).mp (mt (sri_reserved_iff h).mp (Bool.eq_false_iff.mp hs))
  have hemph : (fields h).emphasis ≠ .invalid := mt (emphasis_invalid_iff h).mp (Bool.eq_false_iff.mp he)
  constructor
  · rw [bitrateOf_of_keys T h hv hl, hfree]
  · rw [validate_of_keys T h hv hl, hfree, if_neg (by decide), if_neg hsr, if_neg (by simp [layerTwoExcluded]),
      if_neg hemph]

end Sys2Proof.Machine
end

section
/-! PROOFS. What an instruction can do to the state, once for all instructions, and what follows for the whole machine:
completion, frames, refusals, and who writes `DOUT` (10 R20, R23, 60 R125). -/

namespace Sys2Proof.Machine

/-- The word is four consecutive bytes of the stream, or FF and three of them (20 R41, 41 R76). -/
def HeaderIn (S : Stream) (h : Word) : Prop :=
  ∃ k b0 b1 b2 b3, h = wordOfBytes b0 b1 b2 b3 ∧ S.byteAt k = some b1 ∧ S.byteAt (k + 1) = some b2 ∧
    S.byteAt (k + 2) = some b3 ∧ (b0 = 0xFF#8 ∨ (0 < k ∧ S.byteAt (k - 1) = some b0))

theorem State.headerFromStream_iff (s : State) : s.HeaderFromStream ↔ (s.hdrv = true → HeaderIn s.stream s.h) := Iff.rfl

theorem headerIn_of_three {S : Stream} {k : Nat} {b1 b2 b3 : Byte} (h1 : S.byteAt k = some b1)
    (h2 : S.byteAt (k + 1) = some b2) (h3 : S.byteAt (k + 2) = some b3) :
    HeaderIn S (wordOfBytes 0xFF#8 b1 b2 b3) :=
  ⟨k, _, b1, b2, b3, rfl, h1, h2, h3, .inl rfl⟩

theorem headerIn_of_four {S : Stream} {k : Nat} {b0 b1 b2 b3 : Byte} (h0 : S.byteAt k = some b0)
    (h1 : S.byteAt (k + 1) = some b1) (h2 : S.byteAt (k + 2) = some b2) (h3 : S.byteAt (k + 3) = some b3) :
    HeaderIn S (wordOfBytes b0 b1 b2 b3) :=
  ⟨k + 1, b0, b1, b2, b3, rfl, h1, h2, h3, .inr ⟨k.succ_pos, h0⟩⟩

/-! ### The effects -/

/-- The states an instruction can leave, by the shared operation that makes them. -/
inductive Effect (s : State) : Instr → State → Prop where
  | matched {i : Instr} (c : Nat) (forward : s.cur ≤ c) (within : c ≤ s.stream.len) : Effect s i (s.scanHit c)
  | notMatched {i : Instr} : Effect s i s.scanMiss
  | incomplete {i : Instr} : Effect s i s.incomplete
  | decoded {i : Instr} (n : Nat) (h : Word) (left : s.cur + n ≤ s.stream.len) (from_stream : HeaderIn s.stream h) :
      Effect s i (s.loadHeader n h)
  | validated {i : Instr} (held : s.hdrv = true) : Effect s i (s.setVerdict (validate s.tables s.h))
  | refused {i : Instr} (c : Result) (refusal : c = .eNoHdr ∨ c = .eBadKey ∨ c = .eBadCmd) : Effect s i (s.refuse c)
  | lookedUp {i : Instr} (d : Dout) (sentinel : d.tag ≠ .value → d.val = 0#32) (accessor : i = .brate ∨ i = .srate) :
      Effect s i (s.setDout d)
  | headerRow {i : Instr} (h : Word) (row : i.IsHeaderRow h) (left : s.cur + 4 ≤ s.stream.len) :
      Effect s i ((s.loadHeader 4 h).setVerdict (validate s.tables h))
  | frameEnd : Effect s .frame s.frameEnd
  | frameTruncated (k : Nat) : Effect s .frame (s.frameTruncated k)
  | frameReport (k : Nat) (h : Word) (forward : s.cur ≤ k) (left : k + 4 ≤ s.stream.len)
      (from_stream : HeaderIn s.stream h) : Effect s .frame (s.frameReport k h)

/-- An instruction has one of the effects, or reads past the end of input, from a cursor past it. -/
def Completes (s : State) (i : Instr) (o : Out) : Prop :=
  (s.stream.len < s.cur ∧ o = .fault .readPastEnd) ∨ ∃ t, o = .next t ∧ Effect s i t

section
variable (s : State) (i : Instr)

theorem scan_completes (k : Nat) (hk : k ≤ 1) : Completes s i (scan k s) := by
  rcases Nat.lt_or_ge s.stream.len s.cur with hlt | hle
  · exact .inl ⟨hlt, scan_pastEnd k s hlt⟩
  · refine .inr ?_
    rcases scan_cases k s hle with ⟨j, hj, he⟩ | ⟨-, he⟩
    · have hlen := hj.lt_len
      exact ⟨_, he, .matched _ (Nat.le_add_right_of_le hj.1) (by omega)⟩
    · exact ⟨_, he, .notMatched⟩

theorem decodeThree_completes : Completes s i (decodeThree s) := by
  rcases decodeThree_cases s with ⟨-, he⟩ | ⟨hl, b1, b2, b3, h1, h2, h3, he⟩
  · exact .inr ⟨_, he, .incomplete⟩
  · exact .inr ⟨_, he, .decoded 3 _ hl (headerIn_of_three h1 h2 h3)⟩

theorem decodeFour_completes : Completes s i (decodeFour s) := by
  rcases decodeFour_cases s with ⟨-, he⟩ | ⟨hl, b0, b1, b2, b3, h0, h1, h2, h3, he⟩
  · exact .inr ⟨_, he, .incomplete⟩
  · exact .inr ⟨_, he, .decoded 4 _ hl (headerIn_of_four h0 h1 h2 h3)⟩

theorem validateHeader_completes : Completes s i (validateHeader s) := by
  rcases validateHeader_cases s with ⟨-, he⟩ | ⟨hh, he⟩
  · exact .inr ⟨_, he, .refused _ (.inl rfl)⟩
  · exact .inr ⟨_, he, .validated hh⟩

variable {i} in
/-- A lookup whose results give sentinels the value 0 has one of the effects (10 R20). -/
theorem lookup_completes (f : Word → Option Dout) (hf : ∀ h d, f h = some d → d.tag ≠ .value → d.val = 0#32)
    (hi : i = .brate ∨ i = .srate) : Completes s i (lookup s f) := by
  rcases lookup_cases s f with ⟨-, he⟩ | ⟨-, -, he⟩ | ⟨-, d, hd, he⟩
  · exact .inr ⟨_, he, .refused _ (.inl rfl)⟩
  · exact .inr ⟨_, he, .refused _ (.inr (.inl rfl))⟩
  · exact .inr ⟨_, he, .lookedUp d (hf _ d hd) hi⟩

variable {i} in
theorem headerRow_completes {h : Word} (hi : i.IsHeaderRow h) : Completes s i (exec i s) := by
  rw [exec_of_isHeaderRow hi]
  rcases runHeaderWord_cases h s with ⟨-, he⟩ | ⟨hl, he⟩
  · exact .inr ⟨_, he, .incomplete⟩
  · exact .inr ⟨_, he, .headerRow h hi hl⟩

theorem runSyncWord_completes : Completes s i (runSyncWord s) := by
  rcases runSyncWord_cases s with ⟨-, he⟩ | ⟨hl, he⟩
  · exact .inr ⟨_, he, .notMatched⟩
  · exact .inr ⟨_, he, .matched _ (Nat.le_succ _) (by omega)⟩

theorem execFrame_completes : Completes s .frame (execFrame s) := by
  rcases Nat.lt_or_ge s.stream.len s.cur with hlt | h
  · exact .inl ⟨hlt, execFrame_pastEnd s hlt⟩
  · refine .inr ?_
    rcases sync_ahead_cases s.stream s.cur h with hno | ⟨k, hk, hl | ⟨b1, b2, b3, h1, h2, h3⟩⟩
    · exact ⟨_, execFrame_of_none h hno, .frameEnd⟩
    · exact ⟨_, execFrame_of_truncated h hk hl, .frameTruncated k⟩
    · refine ⟨_, execFrame_of_header h hk h1 h2 h3, .frameReport k _ hk.1 (Stream.lt_of_byteAt _ _ _ h3) ?_⟩
      exact headerIn_of_three h1 h2 h3

end

theorem doutOfBitrate_sentinel (b : Bitrate) (h : (doutOfBitrate b).tag ≠ .value) : (doutOfBitrate b).val = 0#32 := by
  cases b with
  | bps n => exact absurd rfl h
  | free | invalid => rfl

theorem doutOfSampleRate_sentinel (r : SampleRate) (h : (doutOfSampleRate r).tag ≠ .value) :
    (doutOfSampleRate r).val = 0#32 := by
  cases r with
  | hz n => exact absurd rfl h
  | reserved => rfl

theorem execBrate_completes (s : State) : Completes s .brate (execBrate s) := by
  refine lookup_completes s _ (fun h d hd => ?_) (.inl rfl)
  obtain ⟨b, -, rfl⟩ := Option.map_eq_some_iff.mp hd
  exact doutOfBitrate_sentinel b

theorem execSrate_completes (s : State) : Completes s .srate (execSrate s) := by
  refine lookup_completes s _ (fun h d hd => ?_) (.inr rfl)
  obtain ⟨r, -, rfl⟩ := Option.map_eq_some_iff.mp hd
  exact doutOfSampleRate_sentinel r

/-- Everything an instruction can do. -/
theorem exec_completes (i : Instr) (s : State) : Completes s i (exec i s) := by
  cases i with
  | scanC => exact scan_completes s _ 1 (le_refl 1)
  | scanN => exact scan_completes s _ 0 (Nat.zero_le 1)
  | dec3 => exact decodeThree_completes s _
  | dec4 => exact decodeFour_completes s _
  | valid => exact validateHeader_completes s _
  | brate => exact execBrate_completes s
  | srate => exact execSrate_completes s
  | reservedCmd7 => exact .inr ⟨_, rfl, .refused _ (.inr (.inr rfl))⟩
  | frame => exact execFrame_completes s
  | sync2 low => exact runSyncWord_completes s _
  | hdr32 h | rsvdVer h | rsvdLay h | rsvdBri h | rsvdSri h | rsvdEmph h | freeBri h =>
    exact headerRow_completes s (h := h) ⟨rfl, rfl⟩

theorem effect_of_exec {i : Instr} {s t : State} (h : exec i s = .next t) : Effect s i t := by
  rcases exec_completes i s with ⟨-, he⟩ | ⟨u, he, hu⟩ <;> cases he.symm.trans h
  exact hu

/-! ### What the effects share -/

@[simp] theorem State.frameEnd_res (s : State) : s.frameEnd.res = .rNoMatch := rfl
@[simp] theorem State.frameTruncated_res (s : State) (k : Nat) : (s.frameTruncated k).res = .rIncomplete := rfl
@[simp] theorem State.frameReport_res (s : State) (k : Nat) (h : Word) :
    (s.frameReport k h).res = resultOfReason (validate s.tables h) := rfl

theorem resultOfReason_ne (r : Reason) {c : Result} (hv : c ≠ .rValid) (hi : c ≠ .rInvalid) : resultOfReason r ≠ c := by
  unfold resultOfReason
  split
  · exact hv.symm
  · exact hi.symm

section
variable {s t : State} {i : Instr}

/-- No effect writes the stream, the tables or the host's requests (20 R30, 10 R23). -/
theorem Effect.frame (e : Effect s i t) : t.port = s.port ∧ t.tables = s.tables ∧ t.stream = s.stream := by
  cases e <;> exact ⟨rfl, rfl, rfl⟩

/-- The host's count, offset, reports and run end are FRAME's (10 R22). -/
theorem Effect.host_frame (e : Effect s i t) (hi : i ≠ .frame) :
    t.vcount = s.vcount ∧ t.offset = s.offset ∧ t.reports = s.reports ∧ t.runEnd = s.runEnd := by
  cases e with
  | frameEnd | frameTruncated | frameReport => exact absurd rfl hi
  | matched | notMatched | incomplete | decoded | validated | refused | lookedUp | headerRow =>
    exact ⟨rfl, rfl, rfl, rfl⟩

/-- Every effect leaves the cursor within the stream, when it was (10 R12). -/
theorem Effect.cur_le_len (e : Effect s i t) (h : s.cur ≤ s.stream.len) : t.cur ≤ s.stream.len := by
  cases e with
  | matched c _ within => exact within
  | notMatched | incomplete | frameEnd | frameTruncated => exact le_refl _
  | decoded n w left _ => exact left
  | validated | refused | lookedUp => exact h
  | headerRow w _ left => exact left
  | frameReport k w _ left _ => exact left

/-- No effect moves the cursor back, and a counted frame moves it four bytes (10 R12, 44 R118). -/
theorem Effect.cur_le_and_count (e : Effect s i t) (h : s.cur ≤ s.stream.len) :
    s.cur ≤ t.cur ∧ s.cur + 4 * t.vcount ≤ t.cur + 4 * s.vcount := by
  cases e with
  | matched c forward _ => exact ⟨forward, Nat.add_le_add_right forward _⟩
  | notMatched | incomplete | frameEnd | frameTruncated => exact ⟨h, Nat.add_le_add_right h _⟩
  | decoded n w _ _ => exact ⟨Nat.le_add_right _ _, Nat.add_le_add_right (Nat.le_add_right _ _) _⟩
  | validated | refused | lookedUp => exact ⟨le_refl _, le_refl _⟩
  | headerRow w _ _ => exact ⟨Nat.le_add_right _ _, Nat.add_le_add_right (Nat.le_add_right _ _) _⟩
  | frameReport k w forward _ _ =>
    rw [State.frameReport_eq]
    dsimp only
    split <;> omega

/-- Every effect writes a result code (60 R132). -/
theorem Effect.res_ne_rNone (e : Effect s i t) : t.res ≠ .rNone := by
  cases e with
  | matched | notMatched | incomplete | decoded | lookedUp | frameEnd | frameTruncated => simp
  | validated | headerRow | frameReport => exact resultOfReason_ne _ (by decide) (by decide)
  | refused c hc => rcases hc with rfl | rfl | rfl <;> simp

/-- A refusal code is written by a refusal alone, which writes nothing else (60 R125). -/
theorem Effect.eq_of_refusal (e : Effect s i t) (hr : t.res = .eNoHdr ∨ t.res = .eBadKey ∨ t.res = .eBadCmd) :
    t = { s with res := t.res } := by
  cases e with
  | refused c hc => rfl
  | matched | notMatched | incomplete | decoded | lookedUp | frameEnd | frameTruncated => simp at hr
  | validated | headerRow | frameReport =>
    rcases hr with hr | hr | hr <;> exact absurd hr (resultOfReason_ne _ (by decide) (by decide))

/-- `DOUT` is written by the lookups alone, with `R_LOOKUP`, and a sentinel comes with value 0 (10 R20). -/
theorem Effect.dout_cases (e : Effect s i t) :
    (t.res ≠ .rLookup ∧ t.dout = s.dout) ∨
      ((i = .brate ∨ i = .srate) ∧ t.res = .rLookup ∧ (t.dout.tag ≠ .value → t.dout.val = 0#32)) := by
  cases e with
  | lookedUp d sentinel accessor => exact .inr ⟨accessor, rfl, sentinel⟩
  | matched | notMatched | incomplete | decoded | frameEnd | frameTruncated => exact .inl ⟨by simp, rfl⟩
  | validated | headerRow | frameReport => exact .inl ⟨resultOfReason_ne _ (by decide) (by decide), rfl⟩
  | refused c hc => exact .inl ⟨by rcases hc with rfl | rfl | rfl <;> simp, rfl⟩

end

/-! ### The effect of a step -/

/-- A header row that was fetched has its word in the stream. -/
theorem headerIn_of_fetch {s : State} {src : Source} {bs : List Byte} {rest : List Request} {i : Instr} {w : Word}
    (hf : fetch s = .bytes src bs rest) (hd : decode src bs = .instr i) (hi : i.IsHeaderRow w) : HeaderIn s.stream w := by
  obtain ⟨-, hsrc, henc⟩ := decodedInstructionReencodesToItsBytes src bs i hd
  have hbytes : bytesOfWord w = bs := hi.2.symm.trans henc
  have hstream : src = .stream := hsrc.symm.trans hi.1
  rcases fetch_cases s with ⟨-, he⟩ | ⟨_, _, -, he⟩ | ⟨_, -, he⟩ | ⟨_, -, ⟨-, he⟩ | ⟨-, b0, b1, -, -, he⟩⟩ |
    ⟨_, -, ⟨-, he⟩ | ⟨-, b0, b1, b2, b3, h0, h1, h2, h3, he⟩⟩ <;> cases he.symm.trans hf
  · cases hstream
  · simp [bytesOfWord] at hbytes
  · rw [bytesOfWord_injective (hbytes.trans (bytesOfWord_word_of_bytes b0 b1 b2 b3).symm)]
    exact headerIn_of_four h0 h1 h2 h3

/-- A step that gives a next state is idle, or has the effect of some instruction; where that is a header row, its word
stands in the stream. -/
theorem step_effect {s t : State} (h : step s = .next t) :
    t = s ∨ ∃ rest i, Effect (s.setPort rest) i t ∧ ∀ w, i.IsHeaderRow w → HeaderIn s.stream w := by
  have hcommand {i : Instr} (hi : i.source = .command) (w : Word) (hrow : i.IsHeaderRow w) : HeaderIn s.stream w := by
    cases hi.symm.trans hrow.1
  rcases step_cases s t h with ⟨-, rfl⟩ | hf | ⟨rest, -, ho⟩ | ⟨src, bs, rest, i, hf, hd, he⟩
  · exact .inl rfl
  · refine .inr ?_
    rcases fetch_cases s with ⟨-, he⟩ | ⟨_, _, -, he⟩ | ⟨_, -, he⟩ | ⟨rest, -, ⟨-, he⟩ | ⟨-, _, _, -, -, he⟩⟩ |
      ⟨rest, -, ⟨-, he⟩ | ⟨-, _, _, _, _, -, -, -, -, he⟩⟩ <;> cases he.symm.trans hf
    · exact ⟨rest, .scanC, .notMatched, hcommand rfl⟩
    · exact ⟨rest, .dec4, .incomplete, hcommand rfl⟩
  · rw [runOtherFrame_eq_execFrame] at ho
    exact .inr ⟨rest, .frame, effect_of_exec ho, hcommand rfl⟩
  · exact .inr ⟨rest, i, effect_of_exec he, fun w => headerIn_of_fetch hf hd⟩

/-! ### The obligations -/

/-- Settles O34. -/
theorem refusalsWriteOnlyTheResult : Obligations.RefusalsWriteOnlyTheResult :=
  fun _ _ _ h => (effect_of_exec h).eq_of_refusal

/-- Settles O35: within the stream no instruction reads past its end. -/
theorem everyInstructionCompletes : Obligations.EveryInstructionCompletes := by
  intro i s h
  rcases exec_completes i s with ⟨hlt, -⟩ | ⟨t, ht, e⟩
  · exact absurd h (Nat.not_le.mpr hlt)
  · obtain ⟨-, -, hS⟩ := e.frame
    exact ⟨t, ht, hS ▸ e.cur_le_len h, e.res_ne_rNone⟩

/-- Settles O37: each family's registers by what its operation can answer, the rest by the effects' common frame. -/
theorem commandsTouchOnlyTheirRegisters : Obligations.CommandsTouchOnlyTheirRegisters := by
  intro i s t h
  have e := effect_of_exec h
  obtain ⟨hport, htables, hstream⟩ := e.frame
  refine ⟨?scans, ?decodes, ?valid, ?lookups, e.host_frame, hport, htables, by rw [hstream], fun a => by rw [hstream]⟩
  case scans =>
    have hscan (k : Nat) (hk : scan k s = .next t) :
        t.h = s.h ∧ t.hdrv = s.hdrv ∧ t.rv = s.rv ∧ t.reason = s.reason ∧ t.dout = s.dout := by
      obtain ⟨-, ⟨j, -, rfl⟩ | ⟨-, rfl⟩⟩ := scan_eq_next hk <;> exact ⟨rfl, rfl, rfl, rfl, rfl⟩
    rintro (rfl | rfl)
    · exact hscan 1 h
    · exact hscan 0 h
  case decodes =>
    rintro (rfl | rfl)
    · rcases decodeThree_cases s with ⟨-, he⟩ | ⟨-, b1, b2, b3, -, -, -, he⟩ <;> cases he.symm.trans h
      · exact ⟨rfl, rfl, rfl, rfl, fun _ => rfl⟩
      · exact ⟨rfl, rfl, rfl, rfl, fun hr => by simp at hr⟩
    · rcases decodeFour_cases s with ⟨-, he⟩ | ⟨-, b0, b1, b2, b3, -, -, -, -, he⟩ <;> cases he.symm.trans h
      · exact ⟨rfl, rfl, rfl, rfl, fun _ => rfl⟩
      · exact ⟨rfl, rfl, rfl, rfl, fun hr => by simp at hr⟩
  case valid =>
    rintro rfl
    rcases validateHeader_cases s with ⟨-, he⟩ | ⟨-, he⟩ <;> cases he.symm.trans h <;> exact ⟨rfl, rfl, rfl, rfl, rfl⟩
  case lookups =>
    have hlookup (f : Word → Option Dout) (hk : lookup s f = .next t) :
        t.cur = s.cur ∧ t.h = s.h ∧ t.hdrv = s.hdrv ∧ t.matched = s.matched ∧ t.rv = s.rv ∧ t.reason = s.reason ∧
          (t.res ≠ .rLookup → t.dout = s.dout) := by
      rcases lookup_cases s f with ⟨-, he⟩ | ⟨-, -, he⟩ | ⟨-, d, -, he⟩ <;> cases he.symm.trans hk
      · exact ⟨rfl, rfl, rfl, rfl, rfl, rfl, fun _ => rfl⟩
      · exact ⟨rfl, rfl, rfl, rfl, rfl, rfl, fun _ => rfl⟩
      · exact ⟨rfl, rfl, rfl, rfl, rfl, rfl, fun hr => absurd rfl hr⟩
    rintro (rfl | rfl)
    · exact hlookup _ h
    · exact hlookup _ h

/-- Settles O38. -/
theorem streamNeverChanges : Obligations.StreamNeverChanges := by
  intro s t h
  rcases step_effect h with rfl | ⟨rest, i, e, -⟩
  · exact ⟨rfl, rfl, fun _ => rfl⟩
  · obtain ⟨-, htables, hstream⟩ := e.frame
    exact ⟨hstream, htables, fun a => by rw [hstream, State.setPort_stream]⟩

/-- Settles O39. -/
theorem cursorNeverMovesBack : Obligations.CursorNeverMovesBack := by
  intro s t hs h
  rcases step_effect h with rfl | ⟨rest, i, e, -⟩
  · exact ⟨le_refl _, hs⟩
  · obtain ⟨-, -, hstream⟩ := e.frame
    exact ⟨(e.cur_le_and_count hs).1, hstream ▸ e.cur_le_len hs⟩

/-- Settles O40. -/
theorem onlyLookupsWriteDout : Obligations.OnlyLookupsWriteDout := by
  intro i s t h hne
  rcases (effect_of_exec h).dout_cases with ⟨-, hd⟩ | ⟨hi, hr, -⟩
  · exact absurd hd hne
  · exact ⟨hi, hr⟩

/-- Settles O53: `R_LOOKUP` comes with a fresh `DOUT`, and every other effect keeps the old one. -/
theorem sentinelsComeWithValueZero : Obligations.SentinelsComeWithValueZero := by
  refine ⟨fun i s t h hr _ => ?_, fun s t hs h => ?_⟩
  · rcases (effect_of_exec h).dout_cases with ⟨hne, -⟩ | ⟨-, -, hd⟩
    · exact absurd hr hne
    · exact hd
  · rcases step_effect h with rfl | ⟨rest, i, e, -⟩
    · exact hs
    · rcases e.dout_cases with ⟨-, hd⟩ | ⟨-, -, hd⟩
      · rw [hd]
        exact hs
      · exact hd

end Sys2Proof.Machine
end

section
/-! PROOFS. The invariants: the relations between registers and the origin of a held header hold at every launch, and every
step keeps them (10 R12, R15, R17, 20 R41, 44 R118, 70 R143). -/

namespace Sys2Proof.Machine

/-! ### The flags -/

/-- The relations between `HDRV`, `RV`, `REASON` and `H` (10 R15, R17; 43 R105). -/
structure State.FlagsAgree (s : State) : Prop where
  rv_hdrv : s.rv = true → s.hdrv = true
  reason_clear : s.rv = false → s.reason = .noReason
  reason_of_h : s.rv = true → s.reason = validate s.tables s.h

theorem State.Inv.flagsAgree {s : State} (hs : s.Inv) : s.FlagsAgree := ⟨hs.rv_hdrv, hs.reason_clear, hs.reason_of_h⟩

section
variable {s t : State} {i : Instr}

theorem State.flagsAgree_of_clear (hrv : t.rv = false) (hr : t.reason = .noReason) : t.FlagsAgree := by
  refine ⟨fun h => ?_, fun _ => hr, fun h => ?_⟩ <;> cases hrv.symm.trans h

theorem State.flagsAgree_of_verdict (hrv : t.rv = true) (hh : t.hdrv = true) (hr : t.reason = validate t.tables t.h) :
    t.FlagsAgree :=
  ⟨fun _ => hh, fun h => (by cases hrv.symm.trans h), fun _ => hr⟩

/-- A decode clears the verdict, a validation sets it with the header's reason, and the other operations leave the flags. -/
theorem Effect.flagsAgree (e : Effect s i t) (hs : s.FlagsAgree) : t.FlagsAgree := by
  cases e with
  | matched | notMatched | refused | lookedUp | frameEnd => exact ⟨hs.rv_hdrv, hs.reason_clear, hs.reason_of_h⟩
  | incomplete | decoded | frameTruncated => exact State.flagsAgree_of_clear rfl rfl
  | validated held => exact State.flagsAgree_of_verdict rfl held rfl
  | headerRow | frameReport => exact State.flagsAgree_of_verdict rfl rfl rfl

/-- Every effect keeps the invariant; the count stays below its bound because the cursor covers it four to one. -/
theorem State.Inv.of_effect (hs : s.Inv) (e : Effect s i t) : t.Inv := by
  obtain ⟨-, htables, hstream⟩ := e.frame
  have hcur := e.cur_le_len hs.cur_le_len
  have hcount := (e.cur_le_and_count hs.cur_le_len).2
  have hflags := e.flagsAgree hs.flagsAgree
  have hlen := hs.len_lt
  have hcov : 4 * t.vcount ≤ t.cur := by have := hs.count_le; omega
  refine ⟨hstream ▸ hs.stream_wf, hstream ▸ hcur, hstream ▸ hs.len_lt, htables ▸ hs.tables_ok, hflags.rv_hdrv,
    hflags.reason_clear, hflags.reason_of_h, hcov, ?_⟩
  rw [Config.cursorWidth] at hlen
  rw [Config.countWidth]
  omega

theorem State.Inv.setPort (hs : s.Inv) (rest : List Request) : (s.setPort rest).Inv :=
  ⟨hs.stream_wf, hs.cur_le_len, hs.len_lt, hs.tables_ok, hs.rv_hdrv, hs.reason_clear, hs.reason_of_h, hs.count_le,
    hs.count_lt⟩

/-- An effect leaves a held header alone, drops it, or loads one from the stream. -/
theorem Effect.headerFromStream (e : Effect s i t) (hs : s.HeaderFromStream)
    (hi : ∀ w, i.IsHeaderRow w → HeaderIn s.stream w) : t.HeaderFromStream := by
  rw [State.headerFromStream_iff] at *
  cases e with
  | matched | notMatched | validated | refused | lookedUp | frameEnd => exact hs
  | incomplete | frameTruncated => exact fun h => by cases h
  | decoded n w _ from_stream => exact fun _ => from_stream
  | headerRow w row _ => exact fun _ => hi w row
  | frameReport k w _ _ from_stream => exact fun _ => from_stream

end

/-! ### Launch -/

/-- A launch is one exactly under its premises (70 R142, R143). -/
theorem State.launch_eq_none_iff (S : Stream) (T : Tables) (c : Nat) :
    State.launch S T c = none ↔
      ¬ (S.wf = true ∧ (T.P1 ∧ T.P2 ∧ T.P3 ∧ T.P4 ∧ T.P5) ∧ c ≤ S.len ∧ S.len < 2 ^ 64) := by
  rw [← Tables.ok_iff, State.launch]
  split
  · next h => exact iff_of_false (by simp) (not_not_intro h)
  · next h => exact iff_of_true rfl h

theorem State.launchState_status (S : Stream) (T : Tables) (c : Nat) : (State.launchState S T c).status = 0#16 := by
  simp only [State.status, State.launchState_reason, State.launchState_rv, State.launchState_hdrv,
    State.launchState_matched, State.launchState_res]
  decide

theorem State.launch_reset : State.launch ⟨[], 0⟩ defaultTables 0 = some State.reset :=
  if_pos ⟨rfl, defaultTables_ok, le_refl 0, by decide⟩

/-! ### The obligations -/

/-- Settles O44: every effect keeps the invariant. -/
theorem stepKeepsTheInvariant : Obligations.StepKeepsTheInvariant := by
  intro s t hs h
  rcases step_effect h with rfl | ⟨rest, i, e, -⟩
  · exact hs
  · exact (hs.setPort rest).of_effect e

/-- Settles O45: every effect keeps the header's origin, a header row's word being the four bytes that were fetched. -/
theorem stepKeepsTheHeaderFromTheStream : Obligations.StepKeepsTheHeaderFromTheStream := by
  intro s t hs h
  rcases step_effect h with rfl | ⟨rest, i, e, hi⟩
  · exact hs
  · exact e.headerFromStream hs hi

/-- Settles O41. -/
theorem resetLeavesTheSpecifiedValues : Obligations.ResetLeavesTheSpecifiedValues := by
  refine ⟨fun S T c s h => ?_, State.launch_eq_none_iff, fun s t c h => ?_, State.launch_reset⟩
  · obtain ⟨-, -, -, -, rfl⟩ := State.launch_eq_some S T c s h
    exact ⟨rfl, rfl, rfl, rfl, rfl, rfl, rfl, rfl, rfl, State.launchState_status S T c, rfl⟩
  · obtain ⟨-, -, -, -, rfl⟩ := State.launch_eq_some _ _ c t h
    exact ⟨rfl, rfl, h⟩

/-- Settles O43: the launch premises are the clauses about stream and tables, and no flag is set. -/
theorem invariantHoldsAtEveryLaunch : Obligations.InvariantHoldsAtEveryLaunch := by
  intro S T c s h
  obtain ⟨hwf, hok, hc, hlen, rfl⟩ := State.launch_eq_some S T c s h
  have hflags : (State.launchState S T c).FlagsAgree := State.flagsAgree_of_clear rfl rfl
  refine ⟨⟨hwf, hc, hlen, hok, hflags.rv_hdrv, hflags.reason_clear, hflags.reason_of_h, Nat.zero_le _,
    Nat.two_pow_pos _⟩, ?_⟩
  exact fun hh => by cases hh

/-- Settles O42: the reset state is a launch. -/
theorem invariantHoldsAtReset : Obligations.InvariantHoldsAtReset :=
  invariantHoldsAtEveryLaunch _ _ _ _ State.launch_reset

end Sys2Proof.Machine
end
